-- ==== Sys2Proof/Word.lean ====
section
/-! DEFINITION. The word type of MOOn-IV and the field types of its encoding
(spec/00_scope.md R5, R10 to R13; spec/30_encoding.md R66).

Two's complement (R11) is `BitVec.toInt`, `uint` is `BitVec.toNat`, concatenation (R13) is `++` with the high
part on the left, and `+` and `-` wrap (R12). -/

namespace Sys2Proof

/-- A 16-bit word: the width of every register, memory word and instruction (R5, R6). -/
abbrev Word := BitVec 16

/-- One byte of a memory cell (`Host.Cell`). The ISA itself has no byte (R45). -/
abbrev Byte := BitVec 8

/-- The `ac` field, bits 9 to 8: the number of a register of the ac bank (R5, R20). -/
abbrev AcReg := BitVec 2

/-- An `rf1` or `rf2` field: the number of a register of the rf bank (R5, R22). -/
abbrev RfReg := BitVec 4

/-- The `shamt` field: an unsigned count, 0 to 15 (R5, R68). -/
abbrev Shamt := BitVec 4

/-- The 8-bit immediate of the I-type (R63). -/
abbrev Imm8 := BitVec 8

/-- The 10-bit immediate of the J-type (R65). -/
abbrev Imm10 := BitVec 10

end Sys2Proof
end

