-- ==== Sys2Proof/Config.lean ====
section
/-! DEFINITION. The parameters spec/00_scope.md R7 leaves to the implementation, as plain data, and the free value
of the one parameter for which the spec names no value.

`State` carries a `Params` (the model's own field: R19 says the parameters are not state), because `exec` takes an
instruction and a state only. No step changes it, and a statement about every state is a statement about every
setting. The values at reset stand in `Sys2Proof/Machine/Initial.lean`. -/

namespace Sys2Proof

/-- `TMUL_TOP_BIT` (R7, R111, D5): what enters `hi[15]` when the addition of `tmul` carries. -/
inductive TmulTopBit where
  /-- the literal reading: the 16-bit sum wraps and a 0 is shifted in -/
  | zero
  /-- the carry of the 16-bit addition is shifted in -/
  | carry
deriving DecidableEq, Repr, Inhabited

/-- `SP_LOC` and `LK_LOC` (R7, R27, R28, D12): where `sp` or `lk` lives. -/
inductive RegLoc where
  /-- a register of its own -/
  | dedicated
  /-- a member of the rf bank -/
  | rf (i : RfReg)
deriving DecidableEq, Repr, Inhabited

/-- `IMAGE_BYTE_ORDER` (R7, R45, D24): which byte of a word comes first in a byte-oriented image file of the host. -/
inductive ByteOrder where
  /-- bits 15 to 8 first -/
  | big
  /-- bits 7 to 0 first -/
  | little
deriving DecidableEq, Repr, Inhabited

/-- The word addresses from `first` to `last`, both included. -/
structure AddrRange where
  first : Word
  last  : Word
deriving DecidableEq, Repr

/-- The parameters of R7, and the setting of R53. `RESET_PC` is read by the start state only (`State.initial`) and
`IMAGE_BYTE_ORDER` by the host's load only (`Sys2Proof/Machine/Image.lean`); no step reads either. -/
structure Params where
  /-- `SLT_SIGNED` (D4) -/
  sltSigned : Bool
  /-- `TMUL_TOP_BIT` (D5) -/
  tmulTopBit : TmulTopBit
  /-- `BRANCH_IMM_SIGNED` (D8) -/
  branchImmSigned : Bool
  /-- `SP_LOC` (D12) -/
  spLoc : RegLoc
  /-- `LK_LOC` (D12) -/
  lkLoc : RegLoc
  /-- `MEM_UNIFIED` (D14) -/
  memUnified : Bool
  /-- `MEM_MAP.instr` (D16): the implemented words of instruction memory, a union of ranges -/
  instrMap : List AddrRange
  /-- `MEM_MAP.data` (D16): the implemented words of data memory, a union of ranges -/
  dataMap : List AddrRange
  /-- `RESET_PC` (D21): `pc` in the start state -/
  resetPc : Word
  /-- `IMAGE_BYTE_ORDER` (D24) -/
  imageByteOrder : ByteOrder
  /-- The conservative setting of R53 (D26): the words of the loaded program that a data access may not touch.
  The empty list turns the check off. -/
  codeText : List AddrRange
deriving DecidableEq, Repr

/-- The free value of `TMUL_TOP_BIT`, which R7 and D5 leave OPEN: nothing in Lean can evaluate it, so a statement
about runs from reset cannot rest on either reading (notes/assumptions/1.md). -/
opaque Config.tmulTopBit : TmulTopBit

end Sys2Proof
end

