-- ==== Sys2Proof/Syntax.lean ====
section
/-! DEFINITION. The 49 instructions of spec/30_encoding.md R70, one constructor per row of spec/opcode_table.json,
in opcode order. A constructor's arguments are the fields the row names, from high bits to low (R66); bits the row
does not name are ignored (R72) and have no argument. -/

namespace Sys2Proof

/-- An instruction of the MOOn-IV ISA (R70). -/
inductive Instr where
  | nope
  | add (a : AcReg) (r1 r2 : RfReg)
  | sub (a : AcReg) (r1 r2 : RfReg)
  | not (a : AcReg) (r1 : RfReg)
  | and (a : AcReg) (r1 r2 : RfReg)
  | or (a : AcReg) (r1 r2 : RfReg)
  | xor (a : AcReg) (r1 r2 : RfReg)
  | nand (a : AcReg) (r1 r2 : RfReg)
  | nor (a : AcReg) (r1 r2 : RfReg)
  | xnor (a : AcReg) (r1 r2 : RfReg)
  | sll (a : AcReg) (r1 : RfReg) (shamt : Shamt)
  | srl (a : AcReg) (r1 : RfReg) (shamt : Shamt)
  | sra (a : AcReg) (r1 : RfReg) (shamt : Shamt)
  | tmul (r2 : RfReg)
  | tdiv (r2 : RfReg)
  | mtl (a : AcReg)
  | mfl (a : AcReg)
  | mth (a : AcReg)
  | mfh (a : AcReg)
  | mtac (a : AcReg) (r1 : RfReg)
  | mfac (a : AcReg) (r1 : RfReg)
  | slt (a : AcReg) (r1 r2 : RfReg)
  | addi (a : AcReg) (imm : Imm8)
  | subi (a : AcReg) (imm : Imm8)
  | andi (a : AcReg) (imm : Imm8)
  | ori (a : AcReg) (imm : Imm8)
  | xori (a : AcReg) (imm : Imm8)
  | nandi (a : AcReg) (imm : Imm8)
  | nori (a : AcReg) (imm : Imm8)
  | xnori (a : AcReg) (imm : Imm8)
  | lli (a : AcReg) (imm : Imm8)
  | lui (a : AcReg) (imm : Imm8)
  | lsi (a : AcReg) (imm : Imm8)
  | lwr (a : AcReg) (r1 r2 : RfReg)
  | swr (a : AcReg) (r1 r2 : RfReg)
  | push (a : AcReg)
  | pop (a : AcReg)
  | jr (imm : Imm10)
  | jrl (imm : Imm10)
  | ja (r1 : RfReg)
  | jal (r1 : RfReg)
  | bgtz (a : AcReg) (imm : Imm8)
  | bltz (a : AcReg) (imm : Imm8)
  | beqz (a : AcReg) (imm : Imm8)
  | bnez (a : AcReg) (imm : Imm8)
  | bgtzr (a : AcReg) (r1 : RfReg)
  | bltzr (a : AcReg) (r1 : RfReg)
  | beqzr (a : AcReg) (r1 : RfReg)
  | bnezr (a : AcReg) (r1 : RfReg)
deriving DecidableEq, Repr

end Sys2Proof
end

