-- ==== Sys2Proof/Decode.lean ====
section
/-! DEFINITION. Decoding and encoding (spec/30_encoding.md R60 to R72, R76).

`decode` takes a fetched word, `decodeBytes` takes the bytes of a memory image, and both are total: a word whose
opcode is 49 to 63 is rejected by the name `illegalOpcode` (R76). `encode` is the inverse (R66): it writes the unused
bits of R72 as zero. -/

namespace Sys2Proof

/-- Why bits are not an instruction. -/
inductive DecodeReject where
  /-- The opcode field is 49 to 63, which R70 assigns to no instruction (R76). -/
  | illegalOpcode (w : Word)
  /-- Fewer than the two bytes of one instruction word (R60) are left. -/
  | truncated
deriving DecidableEq, Repr

/-! ## Field extraction (R66) -/

def opcodeField (w : Word) : BitVec 6 := w.extractLsb' 10 6
def acField (w : Word) : AcReg := w.extractLsb' 8 2
def rf1Field (w : Word) : RfReg := w.extractLsb' 4 4
def rf2Field (w : Word) : RfReg := w.extractLsb' 0 4
def shamtField (w : Word) : Shamt := w.extractLsb' 0 4
def imm8Field (w : Word) : Imm8 := w.extractLsb' 0 8
def imm10Field (w : Word) : Imm10 := w.extractLsb' 0 10

/-- R67, R70: the opcode field alone selects the instruction; the other bits are ignored unless the row names them
(R72). -/
def decode (w : Word) : Except DecodeReject Instr :=
  match (opcodeField w).toNat with
  | 0 => .ok .nope
  | 1 => .ok (.add (acField w) (rf1Field w) (rf2Field w))
  | 2 => .ok (.sub (acField w) (rf1Field w) (rf2Field w))
  | 3 => .ok (.not (acField w) (rf1Field w))
  | 4 => .ok (.and (acField w) (rf1Field w) (rf2Field w))
  | 5 => .ok (.or (acField w) (rf1Field w) (rf2Field w))
  | 6 => .ok (.xor (acField w) (rf1Field w) (rf2Field w))
  | 7 => .ok (.nand (acField w) (rf1Field w) (rf2Field w))
  | 8 => .ok (.nor (acField w) (rf1Field w) (rf2Field w))
  | 9 => .ok (.xnor (acField w) (rf1Field w) (rf2Field w))
  | 10 => .ok (.sll (acField w) (rf1Field w) (shamtField w))
  | 11 => .ok (.srl (acField w) (rf1Field w) (shamtField w))
  | 12 => .ok (.sra (acField w) (rf1Field w) (shamtField w))
  | 13 => .ok (.tmul (rf2Field w))
  | 14 => .ok (.tdiv (rf2Field w))
  | 15 => .ok (.mtl (acField w))
  | 16 => .ok (.mfl (acField w))
  | 17 => .ok (.mth (acField w))
  | 18 => .ok (.mfh (acField w))
  | 19 => .ok (.mtac (acField w) (rf1Field w))
  | 20 => .ok (.mfac (acField w) (rf1Field w))
  | 21 => .ok (.slt (acField w) (rf1Field w) (rf2Field w))
  | 22 => .ok (.addi (acField w) (imm8Field w))
  | 23 => .ok (.subi (acField w) (imm8Field w))
  | 24 => .ok (.andi (acField w) (imm8Field w))
  | 25 => .ok (.ori (acField w) (imm8Field w))
  | 26 => .ok (.xori (acField w) (imm8Field w))
  | 27 => .ok (.nandi (acField w) (imm8Field w))
  | 28 => .ok (.nori (acField w) (imm8Field w))
  | 29 => .ok (.xnori (acField w) (imm8Field w))
  | 30 => .ok (.lli (acField w) (imm8Field w))
  | 31 => .ok (.lui (acField w) (imm8Field w))
  | 32 => .ok (.lsi (acField w) (imm8Field w))
  | 33 => .ok (.lwr (acField w) (rf1Field w) (rf2Field w))
  | 34 => .ok (.swr (acField w) (rf1Field w) (rf2Field w))
  | 35 => .ok (.push (acField w))
  | 36 => .ok (.pop (acField w))
  | 37 => .ok (.jr (imm10Field w))
  | 38 => .ok (.jrl (imm10Field w))
  | 39 => .ok (.ja (rf1Field w))
  | 40 => .ok (.jal (rf1Field w))
  | 41 => .ok (.bgtz (acField w) (imm8Field w))
  | 42 => .ok (.bltz (acField w) (imm8Field w))
  | 43 => .ok (.beqz (acField w) (imm8Field w))
  | 44 => .ok (.bnez (acField w) (imm8Field w))
  | 45 => .ok (.bgtzr (acField w) (rf1Field w))
  | 46 => .ok (.bltzr (acField w) (rf1Field w))
  | 47 => .ok (.beqzr (acField w) (rf1Field w))
  | 48 => .ok (.bnezr (acField w) (rf1Field w))
  | _ => .error (.illegalOpcode w)

/-- The word whose low byte is `lo` and whose high byte is `hi`. -/
def wordOfBytes (lo hi : Byte) : Word := hi ++ lo

/-- The low byte of a word, bits 7 to 0. -/
def loByte (w : Word) : Byte := w.extractLsb' 0 8

/-- The high byte of a word, bits 15 to 8. -/
def hiByte (w : Word) : Byte := w.extractLsb' 8 8

/-- The word whose bytes stand in this order in an image file (R45, D24). -/
def wordOfImage (order : ByteOrder) (first second : Byte) : Word :=
  match order with
  | .big => wordOfBytes second first
  | .little => wordOfBytes first second

/-- The two bytes of a word as an image file holds them (R45, D24). -/
def bytesOfWord (order : ByteOrder) (w : Word) : List Byte :=
  match order with
  | .big => [hiByte w, loByte w]
  | .little => [loByte w, hiByte w]

/-- Decode one instruction from the bytes of an image file; the answer is the instruction and the bytes after it. Every
instruction is one word (R60). -/
def decodeBytes (order : ByteOrder) : List Byte → Except DecodeReject (Instr × List Byte)
  | first :: second :: rest => (decode (wordOfImage order first second)).map (·, rest)
  | _ => .error .truncated

/-! ## Encoding (R61 to R66) -/

/-- The opcode of each instruction (R70). -/
def Instr.opcode : Instr → BitVec 6
  | .nope => 0#6
  | .add _ _ _ => 1#6
  | .sub _ _ _ => 2#6
  | .not _ _ => 3#6
  | .and _ _ _ => 4#6
  | .or _ _ _ => 5#6
  | .xor _ _ _ => 6#6
  | .nand _ _ _ => 7#6
  | .nor _ _ _ => 8#6
  | .xnor _ _ _ => 9#6
  | .sll _ _ _ => 10#6
  | .srl _ _ _ => 11#6
  | .sra _ _ _ => 12#6
  | .tmul _ => 13#6
  | .tdiv _ => 14#6
  | .mtl _ => 15#6
  | .mfl _ => 16#6
  | .mth _ => 17#6
  | .mfh _ => 18#6
  | .mtac _ _ => 19#6
  | .mfac _ _ => 20#6
  | .slt _ _ _ => 21#6
  | .addi _ _ => 22#6
  | .subi _ _ => 23#6
  | .andi _ _ => 24#6
  | .ori _ _ => 25#6
  | .xori _ _ => 26#6
  | .nandi _ _ => 27#6
  | .nori _ _ => 28#6
  | .xnori _ _ => 29#6
  | .lli _ _ => 30#6
  | .lui _ _ => 31#6
  | .lsi _ _ => 32#6
  | .lwr _ _ _ => 33#6
  | .swr _ _ _ => 34#6
  | .push _ => 35#6
  | .pop _ => 36#6
  | .jr _ => 37#6
  | .jrl _ => 38#6
  | .ja _ => 39#6
  | .jal _ => 40#6
  | .bgtz _ _ => 41#6
  | .bltz _ _ => 42#6
  | .beqz _ _ => 43#6
  | .bnez _ _ => 44#6
  | .bgtzr _ _ => 45#6
  | .bltzr _ _ => 46#6
  | .beqzr _ _ => 47#6
  | .bnezr _ _ => 48#6

/-- R-type: `opcode ++ a ++ r1 ++ r2` (R62, R66). -/
def encodeR (op : BitVec 6) (a : AcReg) (r1 r2 : RfReg) : Word := op ++ a ++ r1 ++ r2

/-- S-type: `opcode ++ a ++ r1 ++ shamt` (R64, R66). -/
def encodeS (op : BitVec 6) (a : AcReg) (r1 : RfReg) (shamt : Shamt) : Word := op ++ a ++ r1 ++ shamt

/-- I-type: `opcode ++ a ++ imm8` (R63, R66). -/
def encodeI (op : BitVec 6) (a : AcReg) (imm : Imm8) : Word := op ++ a ++ imm

/-- J-type: `opcode ++ imm10` (R65, R66). -/
def encodeJ (op : BitVec 6) (imm : Imm10) : Word := op ++ imm

/-- N-type: `opcode ++ 0b0000000000` (R61, R66). -/
def encodeN (op : BitVec 6) : Word := op ++ 0#10

/-- The canonical word of an instruction: unused bits zero (R66, R72). -/
def encode (i : Instr) : Word :=
  match i with
  | .nope => encodeN 0#6
  | .add a r1 r2 => encodeR 1#6 a r1 r2
  | .sub a r1 r2 => encodeR 2#6 a r1 r2
  | .not a r1 => encodeR 3#6 a r1 0#4
  | .and a r1 r2 => encodeR 4#6 a r1 r2
  | .or a r1 r2 => encodeR 5#6 a r1 r2
  | .xor a r1 r2 => encodeR 6#6 a r1 r2
  | .nand a r1 r2 => encodeR 7#6 a r1 r2
  | .nor a r1 r2 => encodeR 8#6 a r1 r2
  | .xnor a r1 r2 => encodeR 9#6 a r1 r2
  | .sll a r1 shamt => encodeS 10#6 a r1 shamt
  | .srl a r1 shamt => encodeS 11#6 a r1 shamt
  | .sra a r1 shamt => encodeS 12#6 a r1 shamt
  | .tmul r2 => encodeR 13#6 0#2 0#4 r2
  | .tdiv r2 => encodeR 14#6 0#2 0#4 r2
  | .mtl a => encodeR 15#6 a 0#4 0#4
  | .mfl a => encodeR 16#6 a 0#4 0#4
  | .mth a => encodeR 17#6 a 0#4 0#4
  | .mfh a => encodeR 18#6 a 0#4 0#4
  | .mtac a r1 => encodeR 19#6 a r1 0#4
  | .mfac a r1 => encodeR 20#6 a r1 0#4
  | .slt a r1 r2 => encodeR 21#6 a r1 r2
  | .addi a imm => encodeI 22#6 a imm
  | .subi a imm => encodeI 23#6 a imm
  | .andi a imm => encodeI 24#6 a imm
  | .ori a imm => encodeI 25#6 a imm
  | .xori a imm => encodeI 26#6 a imm
  | .nandi a imm => encodeI 27#6 a imm
  | .nori a imm => encodeI 28#6 a imm
  | .xnori a imm => encodeI 29#6 a imm
  | .lli a imm => encodeI 30#6 a imm
  | .lui a imm => encodeI 31#6 a imm
  | .lsi a imm => encodeI 32#6 a imm
  | .lwr a r1 r2 => encodeR 33#6 a r1 r2
  | .swr a r1 r2 => encodeR 34#6 a r1 r2
  | .push a => encodeR 35#6 a 0#4 0#4
  | .pop a => encodeR 36#6 a 0#4 0#4
  | .jr imm => encodeJ 37#6 imm
  | .jrl imm => encodeJ 38#6 imm
  | .ja r1 => encodeR 39#6 0#2 r1 0#4
  | .jal r1 => encodeR 40#6 0#2 r1 0#4
  | .bgtz a imm => encodeI 41#6 a imm
  | .bltz a imm => encodeI 42#6 a imm
  | .beqz a imm => encodeI 43#6 a imm
  | .bnez a imm => encodeI 44#6 a imm
  | .bgtzr a r1 => encodeR 45#6 a r1 0#4
  | .bltzr a r1 => encodeR 46#6 a r1 0#4
  | .beqzr a r1 => encodeR 47#6 a r1 0#4
  | .bnezr a r1 => encodeR 48#6 a r1 0#4

/-- The bits of an instruction word that its row of R70 names: the opcode and the fields of the Fields column. The
other bits are the unused bits of R72. -/
def Instr.usedBits : Instr → Word
  | .nope => 0xFC00#16
  | .add _ _ _ => 0xFFFF#16
  | .sub _ _ _ => 0xFFFF#16
  | .not _ _ => 0xFFF0#16
  | .and _ _ _ => 0xFFFF#16
  | .or _ _ _ => 0xFFFF#16
  | .xor _ _ _ => 0xFFFF#16
  | .nand _ _ _ => 0xFFFF#16
  | .nor _ _ _ => 0xFFFF#16
  | .xnor _ _ _ => 0xFFFF#16
  | .sll _ _ _ => 0xFFFF#16
  | .srl _ _ _ => 0xFFFF#16
  | .sra _ _ _ => 0xFFFF#16
  | .tmul _ => 0xFC0F#16
  | .tdiv _ => 0xFC0F#16
  | .mtl _ => 0xFF00#16
  | .mfl _ => 0xFF00#16
  | .mth _ => 0xFF00#16
  | .mfh _ => 0xFF00#16
  | .mtac _ _ => 0xFFF0#16
  | .mfac _ _ => 0xFFF0#16
  | .slt _ _ _ => 0xFFFF#16
  | .addi _ _ => 0xFFFF#16
  | .subi _ _ => 0xFFFF#16
  | .andi _ _ => 0xFFFF#16
  | .ori _ _ => 0xFFFF#16
  | .xori _ _ => 0xFFFF#16
  | .nandi _ _ => 0xFFFF#16
  | .nori _ _ => 0xFFFF#16
  | .xnori _ _ => 0xFFFF#16
  | .lli _ _ => 0xFFFF#16
  | .lui _ _ => 0xFFFF#16
  | .lsi _ _ => 0xFFFF#16
  | .lwr _ _ _ => 0xFFFF#16
  | .swr _ _ _ => 0xFFFF#16
  | .push _ => 0xFF00#16
  | .pop _ => 0xFF00#16
  | .jr _ => 0xFFFF#16
  | .jrl _ => 0xFFFF#16
  | .ja _ => 0xFCF0#16
  | .jal _ => 0xFCF0#16
  | .bgtz _ _ => 0xFFFF#16
  | .bltz _ _ => 0xFFFF#16
  | .beqz _ _ => 0xFFFF#16
  | .bnez _ _ => 0xFFFF#16
  | .bgtzr _ _ => 0xFFF0#16
  | .bltzr _ _ => 0xFFF0#16
  | .beqzr _ _ => 0xFFF0#16
  | .bnezr _ _ => 0xFFF0#16

/-- The word of a row of spec/opcode_table.json given as `nbits` bits of `w`, bit 0 the least significant. -/
def tableWord (nbits w : Nat) : Word := BitVec.ofNat 16 (w % 2 ^ nbits)

/-- What the decoder reads from that word, laid out in bytes as the cells of memory hold it (notes/assumptions/8.md);
`none` where it rejects. Either byte order gives the same answer. -/
def decodeTableWord (nbits w : Nat) : Option Instr :=
  match decodeBytes .little (bytesOfWord .little (tableWord nbits w)) with
  | .ok (i, _) => some i
  | .error _ => none

end Sys2Proof
end

