-- ==== Sys2Proof/Machine/Flags.lean ====
section
/-! DEFINITION. The hardware has no flags, condition codes or predicates (spec/10_state.md R32). What stands in their
place: the four conditions the branches test on an ac register (spec/46_control.md R174), the comparison of `slt`
(spec/41_logical_arithmetic.md R110), and the two arithmetic steps whose carry or comparison is used up inside one
instruction (R111, R112). -/

namespace Sys2Proof.Machine

/-- `ac > 0`: `sint(v) > 0` (R174, D9). -/
def gtZero (v : Word) : Bool := decide (0 < v.toInt)

/-- `ac < 0`: `sint(v) < 0` (R174, D9). -/
def ltZero (v : Word) : Bool := decide (v.toInt < 0)

/-- `ac == 0` (R174). -/
def eqZero (v : Word) : Bool := v == 0#16

/-- `ac != 0` (R174). -/
def neZero (v : Word) : Bool := v != 0#16

/-- `less` of `slt`: signed if `SLT_SIGNED`, else unsigned (R110, D4). -/
def sltLess (p : Params) (x y : Word) : Bool := if p.sltSigned then x.slt y else x.ult y

/-- One `tmul` step on `hi`, `lo` and the multiplicand `m` (R111): add if `lo[0]` is 1, then shift the pair right by
one. `top` enters `hi[15]`; with `TMUL_TOP_BIT` it matters only when the addition carries. -/
def tmulStep (topBit : TmulTopBit) (hi lo m : Word) : Word × Word :=
  let sum17 : BitVec 17 := hi.setWidth 17 + m.setWidth 17
  let h : Word := if lo.getLsbD 0 then sum17.extractLsb' 0 16 else hi
  let top : Bool := lo.getLsbD 0 && (sum17.getLsbD 16 && (topBit == .carry))
  let pair : BitVec 33 := BitVec.ofBool top ++ h ++ lo
  (pair.extractLsb' 17 16, pair.extractLsb' 1 16)

/-- One `tdiv` step on `hi`, `lo` and the divisor `d` (R112): compare unsigned, subtract if `hi` is at least `d`, then
shift the pair left by one, inserting 0 after a subtraction and 1 otherwise (as the source says, U6). -/
def tdivStep (hi lo d : Word) : Word × Word :=
  let h : Word := if d.ule hi then hi - d else hi
  let bit : Bool := !d.ule hi
  let pair : BitVec 33 := h ++ lo ++ BitVec.ofBool bit
  (pair.extractLsb' 16 16, pair.extractLsb' 0 16)

end Sys2Proof.Machine
end

