-- ==== Sys2Proof/Machine/Initial.lean ====
section
/-! DEFINITION. The values the parameters and `pc` have at reset. The spec leaves each of them open (spec/00_scope.md
R7; spec/70_reset_and_hazards.md R230); each value here is named in the assumption log. -/

namespace Sys2Proof.Machine

/-- The value of `RESET_PC` (R230, D21) in `initialParams`: DESIGN CHOICE, unsafe, the start value most of the spec's vectors use
(notes/assumptions/4.md). -/
def resetPc : Word := 0x0000#16

/-- Every word of an address space: the default of `MEM_MAP` (R7, R48). -/
def allAddresses : List AddrRange := [⟨0x0000#16, 0xFFFF#16⟩]

/-- The parameters at reset: the defaults of R7 where it has one (`SLT_SIGNED`, `BRANCH_IMM_SIGNED`, `MEM_MAP`), the
free value for `TMUL_TOP_BIT` (notes/assumptions/1.md), and DESIGN CHOICES, unsafe for statements about runs from
reset, for `SP_LOC` and `LK_LOC` (notes/assumptions/2.md), `MEM_UNIFIED` (notes/assumptions/3.md), `RESET_PC`
(notes/assumptions/4.md), `IMAGE_BYTE_ORDER` (notes/assumptions/29.md) and the check of R53
(notes/assumptions/6.md). -/
def initialParams : Params where
  sltSigned := true
  tmulTopBit := Config.tmulTopBit
  branchImmSigned := true
  spLoc := .dedicated
  lkLoc := .dedicated
  memUnified := true
  instrMap := allAddresses
  dataMap := allAddresses
  resetPc := resetPc
  imageByteOrder := .little
  codeText := []

end Sys2Proof.Machine
end

