-- ==== Sys2Proof/Machine/Memory.lean ====
section
/-! DEFINITION. Memory: a sorted list of byte cells, read and written one 16-bit word at a time
(spec/20_memory.md R40, R42, R43, R45).

The ISA is word addressed and has no byte (R40, R45). Word address `a` is held in the two cells `2a` (low byte) and
`2a + 1` (high byte); no instruction can observe that layout (notes/assumptions/8.md). A cell that is not listed holds
no value: nothing has written the word (R36, notes/assumptions/7.md). -/

namespace Sys2Proof.Machine

/-- One address space of 65536 words, as cells with strictly rising addresses. -/
abbrev Memory := List Host.Cell

/-- The cell of the low byte of word `a`. -/
def lowCell (a : Word) : Nat := 2 * a.toNat

/-- The cell of the high byte of word `a`. -/
def highCell (a : Word) : Nat := 2 * a.toNat + 1

/-- What one cell holds: an unlisted cell holds no value. -/
def Memory.read : Memory → Nat → Option Byte
  | [], _ => none
  | (j, v) :: m, k => if j = k then some v else Memory.read m k

/-- Write one cell, keeping the addresses rising. -/
def Memory.write : Memory → Nat → Byte → Memory
  | [], k, v => [(k, v)]
  | (j, u) :: m, k, v =>
    if k < j then (k, v) :: (j, u) :: m
    else if k = j then (k, v) :: m
    else (j, u) :: Memory.write m k v

/-- The word at word address `a`, if both of its cells hold a value. -/
def Memory.readWord (m : Memory) (a : Word) : Option Word :=
  match m.read (lowCell a), m.read (highCell a) with
  | some lo, some hi => some (wordOfBytes lo hi)
  | _, _ => none

/-- Replace all 16 bits of the word at word address `a` (R43). -/
def Memory.writeWord (m : Memory) (a v : Word) : Memory :=
  (m.write (lowCell a) (loByte v)).write (highCell a) (hiByte v)

/-- Addresses strictly rising. -/
def Memory.sorted : Memory → Bool
  | [] => true
  | [_] => true
  | c :: d :: m => decide (c.1 < d.1) && Memory.sorted (d :: m)

/-- The other cell of the same word. -/
def otherCell (k : Nat) : Nat := if k % 2 = 0 then k + 1 else k - 1

/-- The canonical form: addresses strictly rising and inside the 65536 words (R40), and each listed word whole. Two
memories in this form that read alike are the same list. -/
def Memory.wf (m : Memory) : Bool :=
  m.sorted && m.all (fun c => decide (c.1 < 131072) && (m.read (otherCell c.1)).isSome)

end Sys2Proof.Machine
end

