-- ==== Sys2Proof/WellFormed.lean ====
section
/-! DEFINITION. What a well-formed instruction and a well-formed parameter set are.

Every field of an instruction is a bit vector of the width its encoding gives it (spec/30_encoding.md R66), and no
rule calls a field value invalid (spec/10_state.md R20, R22: every register number names an implemented register),
so every term of `Instr` is well-formed. The checks that can fail are those on `Params`. The canonical form of memory
is checked by `Sys2Proof.Machine.Memory.wf`. -/

namespace Sys2Proof

/-- Well-formedness of an instruction: its types carry all of it (R20, R22, R66). -/
def Instr.wellFormed (_i : Instr) : Bool := true

/-- A range is written with its lower end first. -/
def AddrRange.wellFormed (r : AddrRange) : Bool := decide (r.first ≤ r.last)

/-- Well-formed parameters: every range is ordered, and the two maps of `MEM_MAP` are equal when `MEM_UNIFIED`
(spec/20_memory.md R48). -/
def Params.wellFormed (p : Params) : Bool :=
  p.instrMap.all AddrRange.wellFormed && p.dataMap.all AddrRange.wellFormed
    && p.codeText.all AddrRange.wellFormed && (!p.memUnified || p.instrMap == p.dataMap)

end Sys2Proof
end

