-- ==== Sys2Proof/Machine/State.lean ====
section
/-! DEFINITION. The architectural state (spec/10_state.md, the table above R20; R20, R22, R25 to R29;
spec/20_memory.md R41), the reasons a step can stop, and the state after reset (R35, R230). -/

namespace Sys2Proof.Machine

/-- All the state of the machine. There are no flags (R32), no control or status registers (R26), no modes (R207) and
no hidden state (R34). -/
structure State where
  /-- `ac[0..3]` (R20) -/
  ac : Vector Word 4
  /-- `rf[0..15]` (R22) -/
  rf : Vector Word 16
  /-- `hi` (R25) -/
  hi : Word
  /-- `lo` (R25) -/
  lo : Word
  /-- `sp` when `SP_LOC = dedicated` (R27); read and written through `State.readSp` and `State.writeSp` -/
  sp : Word
  /-- `lk` when `LK_LOC = dedicated` (R28); read and written through `State.readLk` and `State.writeLk` -/
  lk : Word
  /-- `pc`, a word address of instruction memory (R29) -/
  pc : Word
  /-- data memory, and instruction memory too when `MEM_UNIFIED` (R41) -/
  mem : Memory
  /-- instruction memory when not `MEM_UNIFIED` (R41); not looked at otherwise -/
  imem : Memory
  /-- the model's own field: the parameters of R7, which no step changes -/
  params : Params
deriving DecidableEq, Repr

/-- The model faults of spec/60_exceptions.md R201. A fault is precise and terminal: no register and no memory word
changes, `pc` is the address of the faulting instruction, and the machine takes no further step. Each errs toward
unprovable (safe). -/
inductive Fault where
  /-- `FetchRange` (R44): raised by any step whose `pc` is not in `MEM_MAP.instr`. Safe: the hardware may go on. -/
  | fetchRange (pc : Word)
  /-- `IllegalOpcode` (R76): raised by any step whose word has an opcode 49 to 63; `word` is that word. Safe. -/
  | illegalOpcode (pc word : Word)
  /-- `DataRange` (R42, R43): raised by `lwr swr push pop` when the effective address is not in `MEM_MAP.data`.
  Safe. -/
  | dataRange (pc addr : Word)
  /-- `CodeAccess` (R53): raised by `lwr swr push pop` in the conservative setting, when the address holds loaded
  program text. Safe. -/
  | codeAccess (pc addr : Word)
  /-- `UninitRead` (R36): raised by a fetch, `lwr` or `pop` of a memory word that neither the start state nor an
  earlier instruction has written. Safe. -/
  | uninitRead (pc addr : Word)
deriving DecidableEq, Repr

/-- Why the model has no meaning for an instruction. -/
inductive Refusal where
  /-- Raised by `exec` for an instruction the model does not reach; no arm does so. Safe. -/
  | notModelled (mnemonic : String)
deriving DecidableEq, Repr

/-- What a step or a meaning answers. -/
abbrev Out := Host.Outcome State Fault Refusal

/-- The start state of a machine with the parameters `p`, before the host's load (R35, R230): `pc` is `RESET_PC` and no
memory word holds a value. The spec gives no reset value for any other register: each is zero, a DESIGN CHOICE, unsafe
(notes/assumptions/5.md). -/
def State.initial (p : Params) : State where
  ac := Vector.replicate 4 0
  rf := Vector.replicate 16 0
  hi := 0
  lo := 0
  sp := 0
  lk := 0
  pc := p.resetPc
  mem := []
  imem := []
  params := p

/-- The state after reset of the machine the host runs: the parameters have the values of `initialParams`, among them
`RESET_PC = resetPc` (notes/assumptions/4.md). -/
def State.reset : State := State.initial initialParams

end Sys2Proof.Machine
end

