-- ==== Sys2Proof/Machine/Ops.lean ====
section
/-! DEFINITION. The named operations over registers and memory: register access (spec/00_scope.md R14), `sp` and `lk`
wherever they live (spec/10_state.md R27, R28), the advance of `pc` (R30), the memory primitives `MemRead`, `MemWrite`
and `Fetch` (spec/20_memory.md R42 to R44) with their model faults (spec/60_exceptions.md R201, R204).

There is no taking of an exception and no return from one: the hardware defines no trap, no vector and no saved state
(R200, R205, R206), and every write of a register or of memory here is unconditional plain storage (R22, R47). -/

namespace Sys2Proof.Machine

/-! ## Single-field updates -/

def State.setHi (s : State) (v : Word) : State := { s with hi := v }
def State.setLo (s : State) (v : Word) : State := { s with lo := v }
def State.setPc (s : State) (v : Word) : State := { s with pc := v }
def State.setMem (s : State) (m : Memory) : State := { s with mem := m }
def State.setImem (s : State) (m : Memory) : State := { s with imem := m }

/-- The dedicated stack pointer. -/
def State.setSpReg (s : State) (v : Word) : State := { s with sp := v }

/-- The dedicated link register. -/
def State.setLkReg (s : State) (v : Word) : State := { s with lk := v }

/-! ## The two banks (R14, R20 to R24) -/

/-- `ac[a]`. -/
def State.readAc (s : State) (a : AcReg) : Word := s.ac[a.toNat]'a.isLt

/-- `ac[a] <- v`; no ac register is hardwired (R20). -/
def State.writeAc (s : State) (a : AcReg) (v : Word) : State := { s with ac := s.ac.set a.toNat v a.isLt }

/-- `rf[r]`. -/
def State.readRf (s : State) (r : RfReg) : Word := s.rf[r.toNat]'r.isLt

/-- `rf[r] <- v`; no rf register is hardwired (R22, D30). -/
def State.writeRf (s : State) (r : RfReg) (v : Word) : State := { s with rf := s.rf.set r.toNat v r.isLt }

/-! ## `sp` and `lk` (R27, R28, R165) -/

/-- `sp`: a register of its own, or `rf[i]` when `SP_LOC = rf(i)`. -/
def State.readSp (s : State) : Word :=
  match s.params.spLoc with
  | .dedicated => s.sp
  | .rf i => s.readRf i

/-- `sp <- v`. -/
def State.writeSp (s : State) (v : Word) : State :=
  match s.params.spLoc with
  | .dedicated => s.setSpReg v
  | .rf i => s.writeRf i v

/-- `lk`: a register of its own, or `rf[i]` when `LK_LOC = rf(i)`. No instruction reads it under this name (R28). -/
def State.readLk (s : State) : Word :=
  match s.params.lkLoc with
  | .dedicated => s.lk
  | .rf i => s.readRf i

/-- `lk <- v`. -/
def State.writeLk (s : State) (v : Word) : State :=
  match s.params.lkLoc with
  | .dedicated => s.setLkReg v
  | .rf i => s.writeRf i v

/-! ## The program counter -/

/-- The address of the next sequential instruction, modulo 2^16 (R30, R31). -/
def State.nextPc (s : State) : Word := s.pc + 1

/-- `pc <- pc + 1` (R30). -/
def State.advance (s : State) : State := s.setPc s.nextPc

/-! ## Memory -/

/-- Whether a set of ranges holds a word address. -/
def inRanges (rs : List AddrRange) (a : Word) : Bool := rs.any fun r => decide (r.first ≤ a) && decide (a ≤ r.last)

/-- The instruction memory: the data memory itself when `MEM_UNIFIED` (R41). -/
def State.instrMem (s : State) : Memory := if s.params.memUnified then s.mem else s.imem

/-- Place a word in instruction memory: part of the host's load before a run (R233), no instruction does this. -/
def State.loadInstr (s : State) (a w : Word) : State :=
  if s.params.memUnified then s.setMem (s.mem.writeWord a w) else s.setImem (s.imem.writeWord a w)

/-- `Fetch(pc)` (R44): one word of instruction memory. DESIGN CHOICE (notes/assumptions/30.md): the setting of R53
(`Params.codeText`) does not touch a fetch, as R53 and R201 name data accesses only, though U12 of
spec/93_implementation_defined.md lists a fetch of a word that a store has written beside them. Such a fetch reads the
stored word with `MEM_UNIFIED`, and the word of the separate instruction memory without it. -/
def State.fetch (s : State) : Except Fault Word :=
  if inRanges s.params.instrMap s.pc then
    match s.instrMem.readWord s.pc with
    | some w => .ok w
    | none => .error (.uninitRead s.pc s.pc)
  else .error (.fetchRange s.pc)

/-- The fault of a data access at `a`, if its address alone gives one: `DataRange` before `CodeAccess` (R201, R204). -/
def State.accessFault (s : State) (a : Word) : Option Fault :=
  if inRanges s.params.dataMap a then
    if inRanges s.params.codeText a then some (.codeAccess s.pc a) else none
  else some (.dataRange s.pc a)

/-- `MemRead(a, 1)` (R42); it has no side effect. -/
def State.memRead (s : State) (a : Word) : Except Fault Word :=
  match s.accessFault a with
  | some f => .error f
  | none =>
    match s.mem.readWord a with
    | some w => .ok w
    | none => .error (.uninitRead s.pc a)

/-- `MemWrite(a, 1, v)` (R43); when `MEM_UNIFIED` the same word of instruction memory changes with it. -/
def State.memWrite (s : State) (a v : Word) : Except Fault State :=
  match s.accessFault a with
  | some f => .error f
  | none => .ok (s.setMem (s.mem.writeWord a v))

/-- Go on with the value of a memory access, or stop with its fault: nothing of the instruction is committed (R16,
R202). -/
def afterAccess {α : Type} (x : Except Fault α) (k : α → State) : Out :=
  match x with
  | .ok v => .next (k v)
  | .error f => .fault f

end Sys2Proof.Machine
end

