-- ==== Sys2Proof/Machine/Operands.lean ====
section
/-! DEFINITION. Operand forms: the extensions of the immediates (spec/30_encoding.md R68; spec/00_scope.md R13),
effective addresses (spec/45_memory_access.md R164), jump and branch targets (spec/46_control.md R170, R174). -/

namespace Sys2Proof.Machine

/-- `sext_16(imm8)`: bit 7 repeated eight times, then `imm8` (R13, R68, D33). -/
def sext16 (imm : Imm8) : Word := imm.signExtend 16

/-- `zext_16(imm8) = 0x00 ++ imm8` (R13, R68). -/
def zext16 (imm : Imm8) : Word := 0#8 ++ imm

/-- `imm8 ++ 0x00`, the operand of `lui` (R68). -/
def highByte16 (imm : Imm8) : Word := imm ++ 0#8

/-- The displacement of an immediate branch, in words, not scaled (R68, R174, D8). -/
def branchDisp (p : Params) (imm : Imm8) : Word := if p.branchImmSigned then sext16 imm else zext16 imm

/-- Register plus register: `(rf[r1] + rf[r2]) mod 2^16` (R164). -/
def State.indexedAddr (s : State) (r1 r2 : RfReg) : Word := s.readRf r1 + s.readRf r2

/-- The address `push` stores to: the decremented `sp` (R162, R164). -/
def State.pushAddr (s : State) : Word := s.readSp - 1

/-- The address `pop` loads from: the old `sp` (R163, R164). -/
def State.popAddr (s : State) : Word := s.readSp

/-- The target of `jr` and `jrl`: the page of the jump's own address, `pc[15:10] ++ imm10` (R170, D11). -/
def State.pageTarget (s : State) (imm : Imm10) : Word := s.pc.extractLsb' 10 6 ++ imm

/-- The target of an immediate branch: `(pc + 1 + disp) mod 2^16` (R174). -/
def State.branchTarget (s : State) (imm : Imm8) : Word := s.nextPc + branchDisp s.params imm

end Sys2Proof.Machine
end

