-- ==== Sys2Proof/Machine/Control.lean ====
section
/-! DEFINITION. Control Operations (spec/46_control.md). `pc` on a right-hand side is the address of the control
instruction (R29); there is no delay slot (R183). -/

namespace Sys2Proof.Machine

/-- `pc <- target` if the condition holds, else `pc <- pc + 1` (R174). -/
def branch (taken : Bool) (target : Word) (s : State) : Out := .next (if taken then s.setPc target else s.advance)

/-- `jr` (R170): keep the page of the jump itself, replace the low ten bits of `pc`. -/
def execJr (imm : Imm10) (s : State) : Out := .next (s.setPc (s.pageTarget imm))

/-- `jrl` (R171): `lk = pc + 1`, then as `jr`. -/
def execJrl (imm : Imm10) (s : State) : Out := .next ((s.writeLk s.nextPc).setPc (s.pageTarget imm))

/-- `ja` (R172): `pc = rf1`. -/
def execJa (r1 : RfReg) (s : State) : Out := .next (s.setPc (s.readRf r1))

/-- `jal` (R173): `lk = pc + 1; pc = rf1`, the target read before `lk` is written (D13). -/
def execJal (r1 : RfReg) (s : State) : Out := .next ((s.writeLk s.nextPc).setPc (s.readRf r1))

/-- `bgtz` (R175): branch by the displacement if `ac > 0`. -/
def execBgtz (a : AcReg) (imm : Imm8) (s : State) : Out := branch (gtZero (s.readAc a)) (s.branchTarget imm) s

/-- `bltz` (R176): branch by the displacement if `ac < 0`. -/
def execBltz (a : AcReg) (imm : Imm8) (s : State) : Out := branch (ltZero (s.readAc a)) (s.branchTarget imm) s

/-- `beqz` (R177): branch by the displacement if `ac == 0`. -/
def execBeqz (a : AcReg) (imm : Imm8) (s : State) : Out := branch (eqZero (s.readAc a)) (s.branchTarget imm) s

/-- `bnez` (R178): branch by the displacement if `ac != 0`. -/
def execBnez (a : AcReg) (imm : Imm8) (s : State) : Out := branch (neZero (s.readAc a)) (s.branchTarget imm) s

/-- `bgtzr` (R179): branch to `rf[r1]` if `ac > 0`. -/
def execBgtzr (a : AcReg) (r1 : RfReg) (s : State) : Out := branch (gtZero (s.readAc a)) (s.readRf r1) s

/-- `bltzr` (R180): branch to `rf[r1]` if `ac < 0`. -/
def execBltzr (a : AcReg) (r1 : RfReg) (s : State) : Out := branch (ltZero (s.readAc a)) (s.readRf r1) s

/-- `beqzr` (R181): branch to `rf[r1]` if `ac == 0`. -/
def execBeqzr (a : AcReg) (r1 : RfReg) (s : State) : Out := branch (eqZero (s.readAc a)) (s.readRf r1) s

/-- `bnezr` (R182): branch to `rf[r1]` if `ac != 0`. -/
def execBnezr (a : AcReg) (r1 : RfReg) (s : State) : Out := branch (neZero (s.readAc a)) (s.readRf r1) s

end Sys2Proof.Machine
end

