-- ==== Sys2Proof/Machine/Immediate.lean ====
section
/-! DEFINITION. Immediate Operations (spec/44_immediate.md). -/

namespace Sys2Proof.Machine

/-- The two-address form: `ac[a] <- f ac[a] imm`, the immediate extended to 16 bits, then `pc <- pc + 1`. -/
def aluImm (f : Word → Word → Word) (a : AcReg) (imm16 : Word) (s : State) : Out :=
  .next (s.writeAc a (f (s.readAc a) imm16)).advance

/-- The load form: `ac[a] <- imm`, the old `ac[a]` not read, then `pc <- pc + 1`. -/
def loadImm (a : AcReg) (imm16 : Word) (s : State) : Out := .next (s.writeAc a imm16).advance

/-- `addi` (R140): `ac = ac + sext_16(imm)`, modulo 2^16. -/
def execAddi (a : AcReg) (imm : Imm8) (s : State) : Out := aluImm (fun x y => x + y) a (sext16 imm) s

/-- `subi` (R141): `ac = ac - sext_16(imm)`, modulo 2^16. -/
def execSubi (a : AcReg) (imm : Imm8) (s : State) : Out := aluImm (fun x y => x - y) a (sext16 imm) s

/-- `andi` (R142): `ac = ac AND zext_16(imm)`. -/
def execAndi (a : AcReg) (imm : Imm8) (s : State) : Out := aluImm (fun x y => x &&& y) a (zext16 imm) s

/-- `ori` (R143): `ac = ac OR zext_16(imm)`. -/
def execOri (a : AcReg) (imm : Imm8) (s : State) : Out := aluImm (fun x y => x ||| y) a (zext16 imm) s

/-- `xori` (R144): `ac = ac XOR zext_16(imm)`. -/
def execXori (a : AcReg) (imm : Imm8) (s : State) : Out := aluImm (fun x y => x ^^^ y) a (zext16 imm) s

/-- `nandi` (R145): `ac = NOT (ac AND zext_16(imm))`. -/
def execNandi (a : AcReg) (imm : Imm8) (s : State) : Out := aluImm (fun x y => ~~~(x &&& y)) a (zext16 imm) s

/-- `nori` (R146): `ac = NOT (ac OR zext_16(imm))`. -/
def execNori (a : AcReg) (imm : Imm8) (s : State) : Out := aluImm (fun x y => ~~~(x ||| y)) a (zext16 imm) s

/-- `xnori` (R147): `ac = NOT (ac XOR zext_16(imm))`. -/
def execXnori (a : AcReg) (imm : Imm8) (s : State) : Out := aluImm (fun x y => ~~~(x ^^^ y)) a (zext16 imm) s

/-- `lli` (R148): `ac = 0x00 ++ imm`. -/
def execLli (a : AcReg) (imm : Imm8) (s : State) : Out := loadImm a (zext16 imm) s

/-- `lui` (R149): `ac = imm ++ 0x00`. -/
def execLui (a : AcReg) (imm : Imm8) (s : State) : Out := loadImm a (highByte16 imm) s

/-- `lsi` (R150): `ac = sext_16(imm)`. -/
def execLsi (a : AcReg) (imm : Imm8) (s : State) : Out := loadImm a (sext16 imm) s

end Sys2Proof.Machine
end

