-- ==== Sys2Proof/Machine/LogicalArithmetic.lean ====
section
/-! DEFINITION. Logical and Arithmetic Operations (spec/41_logical_arithmetic.md). None accesses data memory and none
can fault (R113, R202). -/

namespace Sys2Proof.Machine

/-- The three-address form: `ac[a] <- f rf[r1] rf[r2]`, then `pc <- pc + 1`. -/
def aluReg (f : Word → Word → Word) (a : AcReg) (r1 r2 : RfReg) (s : State) : Out :=
  .next (s.writeAc a (f (s.readRf r1) (s.readRf r2))).advance

/-- `add` (R101): `ac = rf1 + rf2`, modulo 2^16. -/
def execAdd (a : AcReg) (r1 r2 : RfReg) (s : State) : Out := aluReg (fun x y => x + y) a r1 r2 s

/-- `sub` (R102): `ac = rf1 - rf2`, modulo 2^16. -/
def execSub (a : AcReg) (r1 r2 : RfReg) (s : State) : Out := aluReg (fun x y => x - y) a r1 r2 s

/-- `not` (R103): `ac = NOT rf1`; `rf2` is not read. -/
def execNot (a : AcReg) (r1 : RfReg) (s : State) : Out := .next (s.writeAc a (~~~ s.readRf r1)).advance

/-- `and` (R104): `ac = rf1 AND rf2`. -/
def execAnd (a : AcReg) (r1 r2 : RfReg) (s : State) : Out := aluReg (fun x y => x &&& y) a r1 r2 s

/-- `or` (R105): `ac = rf1 OR rf2`. -/
def execOr (a : AcReg) (r1 r2 : RfReg) (s : State) : Out := aluReg (fun x y => x ||| y) a r1 r2 s

/-- `xor` (R106): `ac = rf1 XOR rf2`. -/
def execXor (a : AcReg) (r1 r2 : RfReg) (s : State) : Out := aluReg (fun x y => x ^^^ y) a r1 r2 s

/-- `nand` (R107): `ac = NOT (rf1 AND rf2)`. -/
def execNand (a : AcReg) (r1 r2 : RfReg) (s : State) : Out := aluReg (fun x y => ~~~(x &&& y)) a r1 r2 s

/-- `nor` (R108): `ac = NOT (rf1 OR rf2)`. -/
def execNor (a : AcReg) (r1 r2 : RfReg) (s : State) : Out := aluReg (fun x y => ~~~(x ||| y)) a r1 r2 s

/-- `xnor` (R109): `ac = NOT (rf1 XOR rf2)`. -/
def execXnor (a : AcReg) (r1 r2 : RfReg) (s : State) : Out := aluReg (fun x y => ~~~(x ^^^ y)) a r1 r2 s

/-- `slt` (R110): `ac = 1` if `rf1 < rf2`, else 0; signed if `SLT_SIGNED`. -/
def execSlt (a : AcReg) (r1 r2 : RfReg) (s : State) : Out := aluReg (fun x y => if sltLess s.params x y then 1 else 0) a r1 r2 s

/-- Write the pair `hi`, `lo`, then `pc <- pc + 1`. -/
def writePair (p : Word × Word) (s : State) : Out := .next ((s.setHi p.1).setLo p.2).advance

/-- `tmul` (R111): one shift-and-add step on `hi`, `lo` with multiplicand `rf[r2]`. -/
def execTmul (r2 : RfReg) (s : State) : Out := writePair (tmulStep s.params.tmulTopBit s.hi s.lo (s.readRf r2)) s

/-- `tdiv` (R112): one compare-subtract-shift step on `hi`, `lo` with divisor `rf[r2]`. -/
def execTdiv (r2 : RfReg) (s : State) : Out := writePair (tdivStep s.hi s.lo (s.readRf r2)) s

end Sys2Proof.Machine
end

