-- ==== Sys2Proof/Machine/MemoryAccess.lean ====
section
/-! DEFINITION. Memory Access Operations (spec/45_memory_access.md). Each makes one access of one word; a fault of
that access commits nothing (R202). -/

namespace Sys2Proof.Machine

/-- `lwr` (R160): `ac = memory[rf1 + rf2]`. -/
def execLwr (a : AcReg) (r1 r2 : RfReg) (s : State) : Out :=
  afterAccess (s.memRead (s.indexedAddr r1 r2)) fun v => (s.writeAc a v).advance

/-- `swr` (R161): `memory[rf1 + rf2] = ac`. -/
def execSwr (a : AcReg) (r1 r2 : RfReg) (s : State) : Out :=
  afterAccess (s.memWrite (s.indexedAddr r1 r2) (s.readAc a)) fun t => t.advance

/-- `push` (R162): `sp = sp - 1; memory[sp] = ac`, the store at the decremented `sp`. -/
def execPush (a : AcReg) (s : State) : Out :=
  afterAccess (s.memWrite s.pushAddr (s.readAc a)) fun t => (t.writeSp s.pushAddr).advance

/-- `pop` (R163): `ac = memory[sp]; sp = sp + 1`, the load at the old `sp`. -/
def execPop (a : AcReg) (s : State) : Out :=
  afterAccess (s.memRead s.popAddr) fun v => ((s.writeAc a v).writeSp (s.popAddr + 1)).advance

end Sys2Proof.Machine
end

