-- ==== Sys2Proof/Machine/Move.lean ====
section
/-! DEFINITION. Move Operations (spec/43_move.md): each copies 16 bits and leaves its source unchanged. -/

namespace Sys2Proof.Machine

/-- `mtl` (R130): `lo = ac`. -/
def execMtl (a : AcReg) (s : State) : Out := .next (s.setLo (s.readAc a)).advance

/-- `mfl` (R131): `ac = lo`. -/
def execMfl (a : AcReg) (s : State) : Out := .next (s.writeAc a s.lo).advance

/-- `mth` (R132): `hi = ac`. -/
def execMth (a : AcReg) (s : State) : Out := .next (s.setHi (s.readAc a)).advance

/-- `mfh` (R133): `ac = hi`. -/
def execMfh (a : AcReg) (s : State) : Out := .next (s.writeAc a s.hi).advance

/-- `mtac` (R134): `ac = rf1`. -/
def execMtac (a : AcReg) (r1 : RfReg) (s : State) : Out := .next (s.writeAc a (s.readRf r1)).advance

/-- `mfac` (R135): `rf1 = ac`, the only instruction that names an rf destination (R23). -/
def execMfac (a : AcReg) (r1 : RfReg) (s : State) : Out := .next (s.writeRf r1 (s.readAc a)).advance

end Sys2Proof.Machine
end

