-- ==== Sys2Proof/Machine/NoOperation.lean ====
section
/-! DEFINITION. No Operation (spec/40_no_operation.md). -/

namespace Sys2Proof.Machine

/-- `nope` (R100): only `pc` changes. -/
def execNope (s : State) : Out := .next s.advance

end Sys2Proof.Machine
end

