-- ==== Sys2Proof/Machine/Shift.lean ====
section
/-! DEFINITION. Shift Operations (spec/42_shift.md). The count is 0 to 15, so no shift by the full width exists. -/

namespace Sys2Proof.Machine

/-- The shift form: `ac[a] <- f rf[r1] shamt`, then `pc <- pc + 1`. -/
def shiftReg (f : Word → Nat → Word) (a : AcReg) (r1 : RfReg) (shamt : Shamt) (s : State) : Out :=
  .next (s.writeAc a (f (s.readRf r1) shamt.toNat)).advance

/-- `sll` (R120): zeros enter at bit 0. -/
def execSll (a : AcReg) (r1 : RfReg) (shamt : Shamt) (s : State) : Out := shiftReg (fun x n => x <<< n) a r1 shamt s

/-- `srl` (R121): zeros enter at bit 15. -/
def execSrl (a : AcReg) (r1 : RfReg) (shamt : Shamt) (s : State) : Out := shiftReg (fun x n => x >>> n) a r1 shamt s

/-- `sra` (R122): copies of the old bit 15 enter at bit 15 (D3). -/
def execSra (a : AcReg) (r1 : RfReg) (shamt : Shamt) (s : State) : Out := shiftReg (fun x n => x.sshiftRight n) a r1 shamt s

end Sys2Proof.Machine
end

