-- ==== Sys2Proof/Machine/Dispatch.lean ====
section
/-! DEFINITION. One arm per constructor of `Instr`, each one call of its meaning. -/

namespace Sys2Proof.Machine

def exec (i : Instr) (s : State) : Host.Outcome State Fault Refusal :=
  match i with
  | .nope => Sys2Proof.Machine.execNope s
  | .add a r1 r2 => Sys2Proof.Machine.execAdd a r1 r2 s
  | .sub a r1 r2 => Sys2Proof.Machine.execSub a r1 r2 s
  | .not a r1 => Sys2Proof.Machine.execNot a r1 s
  | .and a r1 r2 => Sys2Proof.Machine.execAnd a r1 r2 s
  | .or a r1 r2 => Sys2Proof.Machine.execOr a r1 r2 s
  | .xor a r1 r2 => Sys2Proof.Machine.execXor a r1 r2 s
  | .nand a r1 r2 => Sys2Proof.Machine.execNand a r1 r2 s
  | .nor a r1 r2 => Sys2Proof.Machine.execNor a r1 r2 s
  | .xnor a r1 r2 => Sys2Proof.Machine.execXnor a r1 r2 s
  | .sll a r1 shamt => Sys2Proof.Machine.execSll a r1 shamt s
  | .srl a r1 shamt => Sys2Proof.Machine.execSrl a r1 shamt s
  | .sra a r1 shamt => Sys2Proof.Machine.execSra a r1 shamt s
  | .tmul r2 => Sys2Proof.Machine.execTmul r2 s
  | .tdiv r2 => Sys2Proof.Machine.execTdiv r2 s
  | .mtl a => Sys2Proof.Machine.execMtl a s
  | .mfl a => Sys2Proof.Machine.execMfl a s
  | .mth a => Sys2Proof.Machine.execMth a s
  | .mfh a => Sys2Proof.Machine.execMfh a s
  | .mtac a r1 => Sys2Proof.Machine.execMtac a r1 s
  | .mfac a r1 => Sys2Proof.Machine.execMfac a r1 s
  | .slt a r1 r2 => Sys2Proof.Machine.execSlt a r1 r2 s
  | .addi a imm => Sys2Proof.Machine.execAddi a imm s
  | .subi a imm => Sys2Proof.Machine.execSubi a imm s
  | .andi a imm => Sys2Proof.Machine.execAndi a imm s
  | .ori a imm => Sys2Proof.Machine.execOri a imm s
  | .xori a imm => Sys2Proof.Machine.execXori a imm s
  | .nandi a imm => Sys2Proof.Machine.execNandi a imm s
  | .nori a imm => Sys2Proof.Machine.execNori a imm s
  | .xnori a imm => Sys2Proof.Machine.execXnori a imm s
  | .lli a imm => Sys2Proof.Machine.execLli a imm s
  | .lui a imm => Sys2Proof.Machine.execLui a imm s
  | .lsi a imm => Sys2Proof.Machine.execLsi a imm s
  | .lwr a r1 r2 => Sys2Proof.Machine.execLwr a r1 r2 s
  | .swr a r1 r2 => Sys2Proof.Machine.execSwr a r1 r2 s
  | .push a => Sys2Proof.Machine.execPush a s
  | .pop a => Sys2Proof.Machine.execPop a s
  | .jr imm => Sys2Proof.Machine.execJr imm s
  | .jrl imm => Sys2Proof.Machine.execJrl imm s
  | .ja r1 => Sys2Proof.Machine.execJa r1 s
  | .jal r1 => Sys2Proof.Machine.execJal r1 s
  | .bgtz a imm => Sys2Proof.Machine.execBgtz a imm s
  | .bltz a imm => Sys2Proof.Machine.execBltz a imm s
  | .beqz a imm => Sys2Proof.Machine.execBeqz a imm s
  | .bnez a imm => Sys2Proof.Machine.execBnez a imm s
  | .bgtzr a r1 => Sys2Proof.Machine.execBgtzr a r1 s
  | .bltzr a r1 => Sys2Proof.Machine.execBltzr a r1 s
  | .beqzr a r1 => Sys2Proof.Machine.execBeqzr a r1 s
  | .bnezr a r1 => Sys2Proof.Machine.execBnezr a r1 s

end Sys2Proof.Machine
end

