-- ==== Sys2Proof/Machine/Step.lean ====
section
/-! DEFINITION. One step: fetch at `pc`, decode, execute (spec/70_reset_and_hazards.md R241; spec/00_scope.md R17). -/

namespace Sys2Proof.Machine

/-- One step. A fetch fault comes first, then `IllegalOpcode`, then whatever the instruction answers (R204). The
meaning moves `pc` itself (R30), so a step adds nothing to it. -/
def step (s : State) : Host.Outcome State Fault Refusal :=
  match s.fetch with
  | .error f => .fault f
  | .ok w =>
    match decode w with
    | .error _ => .fault (.illegalOpcode s.pc w)
    | .ok i => exec i s

/-- `s` with the instruction whose bits are the low `nbits` bits of `w` loaded where the next step fetches. -/
def State.withFetchWord (s : State) (nbits w : Nat) : State := s.loadInstr s.pc (tableWord nbits w)

end Sys2Proof.Machine
end

