-- ==== Sys2Proof/Machine/Image.lean ====
section
/-! DEFINITION. The host's load before a run (spec/70_reset_and_hazards.md R233): words, or a byte-oriented image file
in the order `IMAGE_BYTE_ORDER` (spec/20_memory.md R45, D24), placed at consecutive word addresses. No step does any
of this. Notes: notes/assumptions/29.md. -/

namespace Sys2Proof.Machine

/-- The words of an image file; none if its last word is cut short. -/
def wordsOfImage (order : ByteOrder) : List Byte → Option (List Word)
  | [] => some []
  | [_] => none
  | first :: second :: rest => (wordsOfImage order rest).map (wordOfImage order first second :: ·)

/-- The image file of a list of words. -/
def imageOfWords (order : ByteOrder) (ws : List Word) : List Byte := ws.flatMap (bytesOfWord order)

/-- Write words at consecutive addresses from `a` on, modulo 2^16. -/
def Memory.writeWords (m : Memory) (a : Word) : List Word → Memory
  | [] => m
  | w :: ws => Memory.writeWords (m.writeWord a w) (a + 1) ws

/-- The host's load of a program: words placed in instruction memory (the one memory where `MEM_UNIFIED`). -/
def State.loadProgram (s : State) (a : Word) (ws : List Word) : State :=
  if s.params.memUnified then s.setMem (s.mem.writeWords a ws) else s.setImem (s.imem.writeWords a ws)

/-- The host's load of initial data: words placed in data memory. -/
def State.loadData (s : State) (a : Word) (ws : List Word) : State := s.setMem (s.mem.writeWords a ws)

/-- The load of a program from an image file. -/
def State.loadProgramImage (s : State) (a : Word) (image : List Byte) : Option State :=
  (wordsOfImage s.params.imageByteOrder image).map (s.loadProgram a)

/-- The load of initial data from an image file. -/
def State.loadDataImage (s : State) (a : Word) (image : List Byte) : Option State :=
  (wordsOfImage s.params.imageByteOrder image).map (s.loadData a)

end Sys2Proof.Machine
end

