-- ==== Sys2Proof/Machine/Run.lean ====
section
/-! DEFINITION. The end of a run (spec/70_reset_and_hazards.md R234) and the repetition of one instruction
(spec/41_logical_arithmetic.md R114, R115). -/

namespace Sys2Proof.Machine

/-- The word of a `jr` to its own address: `0x9400 | pc[9:0]` (R234). -/
def haltWord (pc : Word) : Word := encode (.jr (pc.extractLsb' 0 10))

/-- A terminal state: the word at `pc` is a `jr` to itself (R234, D23). `step` itself goes on executing it. -/
def State.halted (s : State) : Bool :=
  match s.fetch with
  | .ok w => w == haltWord s.pc
  | .error _ => false

/-- How a run of at most some number of steps ends (R234). -/
inductive RunEnd where
  /-- the first terminal state reached -/
  | final (s : State)
  /-- the run ended unsuccessfully -/
  | faulted (f : Fault)
  /-- an instruction without a meaning -/
  | refused (r : Refusal)
  /-- neither, so far -/
  | running (s : State)
deriving DecidableEq, Repr

/-- Run at most `k` steps, stopping at the first terminal state without executing its idiom (R234). -/
def runUntilHalt : Nat → State → RunEnd
  | 0, s => if s.halted then .final s else .running s
  | k + 1, s =>
    if s.halted then .final s
    else
      match step s with
      | .next t => runUntilHalt k t
      | .fault f => .faulted f
      | .refused r => .refused r

/-- Execute the same instruction `k` times, stopping at a fault or a refusal. -/
def execTimes : Nat → Instr → State → Out
  | 0, _, s => .next s
  | k + 1, i, s =>
    match exec i s with
    | .next t => execTimes k i t
    | .fault f => .fault f
    | .refused r => .refused r

end Sys2Proof.Machine
end

