-- ==== Sys2Proof/Safety.lean ====
section
/-! DEFINITION. The terms claims use: the invariant of the machine, what an instruction may change (its frame), and
what a safe run is. -/

namespace Sys2Proof

/-- The rf register at a location, if it is a member of the rf bank (R27, R28). -/
def RegLoc.rfIndex : RegLoc → Option RfReg
  | .dedicated => none
  | .rf i => some i

/-- Whether the location is a register of its own. -/
def RegLoc.isDedicated : RegLoc → Bool
  | .dedicated => true
  | .rf _ => false

end Sys2Proof

namespace Sys2Proof.Machine

/-- The invariant every step keeps: both memories are in canonical form and the parameters are well-formed. -/
def State.Inv (s : State) : Prop :=
  s.mem.wf = true ∧ s.imem.wf = true ∧ s.params.wellFormed = true

/-- What an instruction may change besides `pc`. A field left out is not changed. -/
structure Changes where
  /-- the ac register it writes -/
  ac : Option AcReg := none
  /-- the rf register it writes -/
  rf : Option RfReg := none
  hi : Bool := false
  lo : Bool := false
  /-- the dedicated stack pointer -/
  sp : Bool := false
  /-- the dedicated link register -/
  lk : Bool := false
  /-- the word address it stores to -/
  stored : Option Word := none

/-- The frame: everything outside `c` reads in `t` as it did in `s`. Every register is read through its accessor and
every memory cell through `Memory.read`; `pc` may change. -/
def Unchanged (c : Changes) (s t : State) : Prop :=
  (∀ a : AcReg, c.ac ≠ some a → t.readAc a = s.readAc a)
  ∧ (∀ r : RfReg, c.rf ≠ some r → t.readRf r = s.readRf r)
  ∧ (c.hi = false → t.hi = s.hi)
  ∧ (c.lo = false → t.lo = s.lo)
  ∧ (c.sp = false → t.sp = s.sp)
  ∧ (c.lk = false → t.lk = s.lk)
  ∧ (∀ k : Nat, (∀ a : Word, c.stored = some a → k ≠ lowCell a ∧ k ≠ highCell a) → t.mem.read k = s.mem.read k)
  ∧ (∀ k : Nat, t.imem.read k = s.imem.read k)
  ∧ t.params = s.params

/-- What `push` and `pop` may change in the register that holds `sp` (R27, R165). -/
def Changes.withSp (c : Changes) (p : Params) : Changes :=
  { c with rf := p.spLoc.rfIndex, sp := p.spLoc.isDedicated }

/-- What `jrl` and `jal` may change in the register that holds `lk` (R28). -/
def Changes.withLk (c : Changes) (p : Params) : Changes :=
  { c with rf := p.lkLoc.rfIndex, lk := p.lkLoc.isDedicated }

/-- A data access at `a` is allowed: the word is implemented and is not guarded program text (R42, R43, R53). -/
def State.accessible (s : State) (a : Word) : Prop :=
  inRanges s.params.dataMap a = true ∧ inRanges s.params.codeText a = false

/-- The instruction completes, writes `ac[a]` with a value that meets `P`, goes on at the next word and changes nothing
else. -/
def WritesAc (i : Instr) (s : State) (a : AcReg) (P : Word → Prop) : Prop :=
  ∃ t, exec i s = .next t ∧ P (t.readAc a) ∧ t.pc = s.pc + 1 ∧ Unchanged { ac := some a } s t

/-- The instruction completes, makes `target` the program counter and changes nothing else. -/
def JumpsTo (i : Instr) (s : State) (target : Word) : Prop :=
  ∃ t, exec i s = .next t ∧ t.pc = target ∧ Unchanged {} s t

/-- A word as the rules of R, S and N format write it: `base | a<<8 | r1<<4 | r2`, an unused field being 0. -/
def regWord (base : Word) (a : AcReg) (r1 r2 : BitVec 4) : Word :=
  base ||| (a.setWidth 16 <<< 8) ||| (r1.setWidth 16 <<< 4) ||| r2.setWidth 16

/-- A word as the rules of I format write it: `base | a<<8 | imm8`. -/
def immWord (base : Word) (a : AcReg) (imm : Imm8) : Word := base ||| (a.setWidth 16 <<< 8) ||| imm.setWidth 16

/-- A step is safe if it stops neither with a fault nor with a refusal. -/
def State.stepSafe (s : State) : Prop := ∃ t, step s = .next t

/-- A run of `k` steps is safe if every one of its steps is. -/
def State.runSafe (s : State) (k : Nat) : Prop := ∃ t, Sys2Proof.core.run k s = .next t

end Sys2Proof.Machine
end

