-- ==== Sys2Proof/Certificates/Slice0/Obligations.lean ====
section
/-! DEFINITION. The statements for the provers. Each docstring says which rule of the spec a statement formalises, or
which part of the spec it is derived from. The vocabulary (`WritesAc`, `JumpsTo`, `Unchanged`, `State.accessible`,
`State.Inv`) stands in `Sys2Proof/Safety.lean`. -/

open Sys2Proof Sys2Proof.Machine

/-- For every well-formed instruction, with every operand at every value its field admits, decoding its encoding answers
that instruction. Derived from spec/30_encoding.md section 2, field extraction and assembly. -/
def Obligations.DecodeEncodeRoundTrip : Prop :=
  ∀ i : Instr, i.wellFormed = true → decode (encode i) = .ok i

/-- If a word decodes to i then encode i is that word with its unused bits cleared, and every word that agrees with it
on the bits the row of i names decodes to i too. That unused bits are ignored is the decision D18 of the spec
(notes/assumptions/12.md). Derived from spec/30_encoding.md section 3, the opcode map: the column of unused bits;
spec/92_eei_decisions.md D18. -/
def Obligations.DecodedWordsDifferOnlyInUnusedBits : Prop :=
  ∀ (w : Word) (i : Instr), decode w = .ok i →
    encode i = w &&& i.usedBits ∧ ∀ w' : Word, w' &&& i.usedBits = w &&& i.usedBits → decode w' = .ok i

/-- Decode is total: a word whose bits 15 to 10 are 0 to 48 decodes to an instruction of the row with that number whose
operands are the bits its format gives them (encoding it again gives the word back, unused bits cleared), and a word
with opcode 49 to 63 is rejected as no instruction. Formalises R67. -/
def Obligations.OpcodeFieldSelectsTheInstruction : Prop :=
  ∀ w : Word,
    ((w.extractLsb' 10 6).toNat ≤ 48 → ∃ i, decode w = .ok i ∧ i.opcode = w.extractLsb' 10 6
        ∧ encode i = w &&& i.usedBits)
    ∧ (49 ≤ (w.extractLsb' 10 6).toNat → decode w = .error (.illegalOpcode w))

/-- Nine words written out in the decode vectors V154 to V163 decode to the instructions given there. Derived from
spec/95_test_vectors.md decode vectors V154 to V166. -/
def Obligations.WrittenOutWordsDecode : Prop :=
  decode 0x0000#16 = .ok .nope ∧ decode 0x0523#16 = .ok (.add 1 2 3) ∧ decode 0x37F5#16 = .ok (.tmul 5)
    ∧ decode 0x5523#16 = .ok (.slt 1 2 3) ∧ decode 0x2814#16 = .ok (.sll 0 1 4)
    ∧ decode 0x5090#16 = .ok (.mfac 0 9) ∧ decode 0x97FF#16 = .ok (.jr 0x3FF)
    ∧ decode 0xB1FD#16 = .ok (.bnez 1 0xFD) ∧ decode 0xC140#16 = .ok (.bnezr 1 4)

/-- If pc is an implemented address of instruction memory, the two cells of the word at pc hold lo and hi, and the word
hi ++ lo decodes to i, then the step is exec of i on the same state: the step adds nothing around it, since the
meaning itself moves pc. That a word lies in two byte cells, its low byte lo in the lower one, is the model's own
choice and no rule of the spec (DESIGN CHOICE, notes/assumptions/8.md). Derived from spec/70_reset_and_hazards.md
section 4, sequential execution; spec/00_scope.md section 4, instruction step. -/
def Obligations.StepRunsTheDecodedInstruction : Prop :=
  ∀ (s : State) (lo hi : Byte) (i : Instr), inRanges s.params.instrMap s.pc = true →
    s.instrMem.read (lowCell s.pc) = some lo → s.instrMem.read (highCell s.pc) = some hi →
    decode (hi ++ lo) = .ok i → step s = exec i s

/-- After withFetchWord places a 16-bit word where the step fetches, at an implemented pc, a step executes what that
word decodes to. Derived from spec/70_reset_and_hazards.md section 2, host. -/
def Obligations.LoadedWordRunsAsTheNextInstruction : Prop :=
  ∀ (s : State) (w : Word) (i : Instr), inRanges s.params.instrMap s.pc = true → decode w = .ok i →
    step (s.withFetchWord 16 w.toNat) = exec i (s.withFetchWord 16 w.toNat)

/-- A step faults with FetchRange when pc is not implemented; with UninitRead when it is but nothing has written the
word there; and with IllegalOpcode, naming the word, when the fetched word has an opcode of 49 to 63. These are
decisions of the spec (D16, D17, D22; notes/assumptions/11.md). Derived from spec/60_exceptions.md section 1, model
faults; spec/92_eei_decisions.md D16, D17, D22. -/
def Obligations.FetchAndDecodeFaultsStopTheStep : Prop :=
  ∀ s : State,
    (inRanges s.params.instrMap s.pc = false → step s = .fault (.fetchRange s.pc))
    ∧ (inRanges s.params.instrMap s.pc = true → s.instrMem.readWord s.pc = none →
        step s = .fault (.uninitRead s.pc s.pc))
    ∧ (∀ w : Word, inRanges s.params.instrMap s.pc = true → s.instrMem.readWord s.pc = some w →
        49 ≤ (opcodeField w).toNat → step s = .fault (.illegalOpcode s.pc w))

/-- nope always completes; pc becomes pc + 1 modulo 2^16 and no register and no memory word changes. Its canonical word
is 0x0000, and every word 0x0000 to 0x03FF decodes to it. Formalises R100. -/
def Obligations.NopeChangesOnlyPc : Prop :=
  encode .nope = 0x0000#16 ∧ (∀ w : Word, w.toNat ≤ 0x03FF → decode w = .ok .nope)
    ∧ ∀ s : State, JumpsTo .nope s (s.pc + 1)

/-- add and sub always complete: ac[a] becomes rf[r1] + rf[r2], respectively rf[r1] - rf[r2], modulo 2^16, pc advances
by one, and nothing else changes. The canonical word of each is the one its rule gives. Formalises R101, R102. -/
def Obligations.AddAndSubWrapModulo65536 : Prop :=
  ∀ (a : AcReg) (r1 r2 : RfReg) (s : State),
    encode (.add a r1 r2) = regWord 0x0400 a r1 r2 ∧ encode (.sub a r1 r2) = regWord 0x0800 a r1 r2
    ∧ WritesAc (.add a r1 r2) s a
      (fun v => (v.toNat : ℤ) = ((s.readRf r1).toNat + (s.readRf r2).toNat : ℤ) % 65536)
    ∧ WritesAc (.sub a r1 r2) s a
      (fun v => (v.toNat : ℤ) = ((s.readRf r1).toNat - (s.readRf r2).toNat : ℤ) % 65536)

/-- Each of the seven logical instructions always completes: every bit of ac[a] becomes the named Boolean function of
the same bit of rf[r1] and rf[r2] (of rf[r1] alone for not), pc advances by one, and nothing else changes. The
canonical word of each is the one its rule gives. Formalises R103, R104, R105, R106, R107, R108, R109. -/
def Obligations.LogicalOperationsActBitByBit : Prop :=
  ∀ (a : AcReg) (r1 r2 : RfReg) (s : State),
    encode (.not a r1) = regWord 0x0C00 a r1 0 ∧ encode (.and a r1 r2) = regWord 0x1000 a r1 r2
    ∧ encode (.or a r1 r2) = regWord 0x1400 a r1 r2 ∧ encode (.xor a r1 r2) = regWord 0x1800 a r1 r2
    ∧ encode (.nand a r1 r2) = regWord 0x1C00 a r1 r2 ∧ encode (.nor a r1 r2) = regWord 0x2000 a r1 r2
    ∧ encode (.xnor a r1 r2) = regWord 0x2400 a r1 r2
    ∧ WritesAc (.not a r1) s a (fun v => ∀ k < 16, v.getLsbD k = !(s.readRf r1).getLsbD k)
    ∧ WritesAc (.and a r1 r2) s a
        (fun v => ∀ k < 16, v.getLsbD k = ((s.readRf r1).getLsbD k && (s.readRf r2).getLsbD k))
    ∧ WritesAc (.or a r1 r2) s a
        (fun v => ∀ k < 16, v.getLsbD k = ((s.readRf r1).getLsbD k || (s.readRf r2).getLsbD k))
    ∧ WritesAc (.xor a r1 r2) s a
        (fun v => ∀ k < 16, v.getLsbD k = ((s.readRf r1).getLsbD k != (s.readRf r2).getLsbD k))
    ∧ WritesAc (.nand a r1 r2) s a
        (fun v => ∀ k < 16, v.getLsbD k = !((s.readRf r1).getLsbD k && (s.readRf r2).getLsbD k))
    ∧ WritesAc (.nor a r1 r2) s a
        (fun v => ∀ k < 16, v.getLsbD k = !((s.readRf r1).getLsbD k || (s.readRf r2).getLsbD k))
    ∧ WritesAc (.xnor a r1 r2) s a
        (fun v => ∀ k < 16, v.getLsbD k = ((s.readRf r1).getLsbD k == (s.readRf r2).getLsbD k))

/-- slt always completes: ac[a] becomes 1 if rf[r1] is less than rf[r2] and 0 otherwise, read in two's complement when
the parameter SLT_SIGNED is true and as unsigned numbers when it is false (D4; notes/assumptions/9.md); pc advances
by one, and nothing else changes. Derived from spec/41_logical_arithmetic.md section 1, the rule of slt;
spec/92_eei_decisions.md D4. -/
def Obligations.SltComparesSignedOrUnsigned : Prop :=
  ∀ (a : AcReg) (r1 r2 : RfReg) (s : State),
    WritesAc (.slt a r1 r2) s a (fun v =>
      v = if s.params.sltSigned then (if (s.readRf r1).toInt < (s.readRf r2).toInt then 1#16 else 0#16)
          else (if (s.readRf r1).toNat < (s.readRf r2).toNat then 1#16 else 0#16))

/-- tmul always completes. With the pair read as hi * 65536 + lo: if lo is even the pair is halved; if lo is odd, rf[r2]
is first added to hi, keeping the carry when TMUL_TOP_BIT = carry and dropping it when TMUL_TOP_BIT = zero (both
readings of D5), and then halved. pc advances by one and nothing but hi and lo changes. Derived from
spec/41_logical_arithmetic.md section 2, the rule of tmul; spec/92_eei_decisions.md D5, D6. -/
def Obligations.TmulAddsThenShiftsThePairRight : Prop :=
  ∀ (r2 : RfReg) (s : State), ∃ t, exec (.tmul r2) s = .next t ∧ t.pc = s.pc + 1
    ∧ Unchanged { hi := true, lo := true } s t
    ∧ t.hi.toNat * 65536 + t.lo.toNat =
        if s.lo.toNat % 2 = 0 then (s.hi.toNat * 65536 + s.lo.toNat) / 2
        else match s.params.tmulTopBit with
          | .carry => ((s.hi.toNat + (s.readRf r2).toNat) * 65536 + s.lo.toNat) / 2
          | .zero => ((s.hi.toNat + (s.readRf r2).toNat) % 65536 * 65536 + s.lo.toNat) / 2

/-- If lo[0] is 0, or hi + rf[r2] is below 65536, one tmul step gives the same hi and lo under TMUL_TOP_BIT = zero and
under TMUL_TOP_BIT = carry. Derived from spec/41_logical_arithmetic.md section 2, the rule of tmul: where the two
readings agree. -/
def Obligations.TmulReadingsAgreeWithoutACarry : Prop :=
  ∀ hi lo m : Word, lo.toNat % 2 = 0 ∨ hi.toNat + m.toNat < 65536 →
    tmulStep .zero hi lo m = tmulStep .carry hi lo m

/-- tdiv always completes. With the pair read as hi * 65536 + lo modulo 2^32: if rf[r2] is at most hi (unsigned, D7),
rf[r2] is subtracted from hi and the pair is doubled; otherwise the pair is doubled and 1 is added. pc advances by
one and nothing but hi and lo changes; a zero divisor is an ordinary operand. Derived from
spec/41_logical_arithmetic.md section 2, the rule of tdiv; spec/92_eei_decisions.md D6, D7. -/
def Obligations.TdivSubtractsThenShiftsThePairLeft : Prop :=
  ∀ (r2 : RfReg) (s : State), ∃ t, exec (.tdiv r2) s = .next t ∧ t.pc = s.pc + 1
    ∧ Unchanged { hi := true, lo := true } s t
    ∧ t.hi.toNat * 65536 + t.lo.toNat =
        if (s.readRf r2).toNat ≤ s.hi.toNat
        then ((s.hi.toNat - (s.readRf r2).toNat) * 65536 + s.lo.toNat) * 2 % 4294967296
        else ((s.hi.toNat * 65536 + s.lo.toNat) * 2 + 1) % 4294967296

/-- sll and srl always complete: ac[a] becomes uint(rf[r1]) * 2^shamt modulo 2^16, respectively the floor of
uint(rf[r1]) / 2^shamt, pc advances by one, and nothing else changes. The canonical word of each is the one its rule
gives. Formalises R120, R121. -/
def Obligations.LogicalShiftsMultiplyAndDivideByPowersOfTwo : Prop :=
  ∀ (a : AcReg) (r1 : RfReg) (shamt : Shamt) (s : State),
    encode (.sll a r1 shamt) = regWord 0x2800 a r1 shamt ∧ encode (.srl a r1 shamt) = regWord 0x2C00 a r1 shamt
    ∧ WritesAc (.sll a r1 shamt) s a (fun v => v.toNat = (s.readRf r1).toNat * 2 ^ shamt.toNat % 65536)
    ∧ WritesAc (.srl a r1 shamt) s a (fun v => v.toNat = (s.readRf r1).toNat / 2 ^ shamt.toNat)

/-- sra always completes: the two's-complement value of ac[a] becomes the floor of sint(rf[r1]) / 2^shamt (Lean's / on
integers rounds down for a positive divisor), pc advances by one, and nothing else changes. Two's complement is the
decision D3 of the spec (notes/assumptions/13.md). Derived from spec/42_shift.md the rule of sra;
spec/92_eei_decisions.md D3. -/
def Obligations.SraRoundsTowardMinusInfinity : Prop :=
  ∀ (a : AcReg) (r1 : RfReg) (shamt : Shamt) (s : State),
    WritesAc (.sra a r1 shamt) s a (fun v => v.toInt = (s.readRf r1).toInt / (2 ^ shamt.toNat : ℤ))

/-- mtl writes ac[a] to lo and mth writes it to hi; mfl writes lo to ac[a] and mfh writes hi to it. Each always
completes, pc advances by one, and nothing else changes. The canonical word of each is the one its rule gives.
Formalises R130, R131, R132, R133. -/
def Obligations.MovesCopyHiAndLo : Prop :=
  ∀ (a : AcReg) (s : State),
    encode (.mtl a) = regWord 0x3C00 a 0 0 ∧ encode (.mfl a) = regWord 0x4000 a 0 0
    ∧ encode (.mth a) = regWord 0x4400 a 0 0 ∧ encode (.mfh a) = regWord 0x4800 a 0 0
    ∧ (∃ t, exec (.mtl a) s = .next t ∧ t.lo = s.readAc a ∧ t.pc = s.pc + 1 ∧ Unchanged { lo := true } s t)
    ∧ (∃ t, exec (.mth a) s = .next t ∧ t.hi = s.readAc a ∧ t.pc = s.pc + 1 ∧ Unchanged { hi := true } s t)
    ∧ WritesAc (.mfl a) s a (fun v => v = s.lo)
    ∧ WritesAc (.mfh a) s a (fun v => v = s.hi)

/-- mtac writes rf[r1] to ac[a], and mfac writes ac[a] to rf[r1]; each always completes, pc advances by one, and nothing
else changes. Where SP_LOC or LK_LOC is rf(r1), mtac reads sp or lk and mfac sets it. The canonical word of each is
the one its rule gives. Derived from spec/43_move.md the rules of mtac and mfac; spec/10_state.md section 4, sp and
lk. -/
def Obligations.MovesBetweenTheBanksCopyARegister : Prop :=
  ∀ (a : AcReg) (r1 : RfReg) (s : State),
    encode (.mtac a r1) = regWord 0x4C00 a r1 0 ∧ encode (.mfac a r1) = regWord 0x5000 a r1 0
    ∧ WritesAc (.mtac a r1) s a (fun v => v = s.readRf r1
      ∧ (s.params.spLoc = .rf r1 → v = s.readSp) ∧ (s.params.lkLoc = .rf r1 → v = s.readLk))
    ∧ ∃ t, exec (.mfac a r1) s = .next t ∧ t.readRf r1 = s.readAc a ∧ t.pc = s.pc + 1
        ∧ Unchanged { rf := some r1 } s t
        ∧ (s.params.spLoc = .rf r1 → t.readSp = s.readAc a) ∧ (s.params.lkLoc = .rf r1 → t.readLk = s.readAc a)

/-- addi and subi always complete: with values read in two's complement, ac[a] becomes ac[a] + imm8, respectively ac[a]
- imm8, reduced to the 16-bit signed range modulo 2^16; pc advances by one, and nothing else changes. The canonical
word of each is the one its rule gives. Formalises R140, R141. -/
def Obligations.ArithmeticImmediatesSignExtend : Prop :=
  ∀ (a : AcReg) (imm : Imm8) (s : State),
    encode (.addi a imm) = immWord 0x5800 a imm ∧ encode (.subi a imm) = immWord 0x5C00 a imm
    ∧ WritesAc (.addi a imm) s a (fun v => v.toInt = ((s.readAc a).toInt + imm.toInt).bmod 65536)
    ∧ WritesAc (.subi a imm) s a (fun v => v.toInt = ((s.readAc a).toInt - imm.toInt).bmod 65536)

/-- Each of the six logical immediate instructions always completes: every bit of ac[a] becomes the named Boolean
function of its old value and of the same bit of imm8, where bits 15 to 8 of the immediate are 0; pc advances by
one, and nothing else changes. The canonical word of each is the one its rule gives. Formalises R142, R143, R144,
R145, R146, R147. -/
def Obligations.LogicalImmediatesZeroExtend : Prop :=
  ∀ (a : AcReg) (imm : Imm8) (s : State),
    encode (.andi a imm) = immWord 0x6000 a imm ∧ encode (.ori a imm) = immWord 0x6400 a imm
    ∧ encode (.xori a imm) = immWord 0x6800 a imm ∧ encode (.nandi a imm) = immWord 0x6C00 a imm
    ∧ encode (.nori a imm) = immWord 0x7000 a imm ∧ encode (.xnori a imm) = immWord 0x7400 a imm
    ∧ WritesAc (.andi a imm) s a
        (fun v => ∀ k < 16, v.getLsbD k = ((s.readAc a).getLsbD k && (decide (k < 8) && imm.getLsbD k)))
    ∧ WritesAc (.ori a imm) s a
        (fun v => ∀ k < 16, v.getLsbD k = ((s.readAc a).getLsbD k || (decide (k < 8) && imm.getLsbD k)))
    ∧ WritesAc (.xori a imm) s a
        (fun v => ∀ k < 16, v.getLsbD k = ((s.readAc a).getLsbD k != (decide (k < 8) && imm.getLsbD k)))
    ∧ WritesAc (.nandi a imm) s a
        (fun v => ∀ k < 16, v.getLsbD k = !((s.readAc a).getLsbD k && (decide (k < 8) && imm.getLsbD k)))
    ∧ WritesAc (.nori a imm) s a
        (fun v => ∀ k < 16, v.getLsbD k = !((s.readAc a).getLsbD k || (decide (k < 8) && imm.getLsbD k)))
    ∧ WritesAc (.xnori a imm) s a
        (fun v => ∀ k < 16, v.getLsbD k = ((s.readAc a).getLsbD k == (decide (k < 8) && imm.getLsbD k)))

/-- lli, lui and lsi always complete and do not read ac[a]: it becomes imm8 as an unsigned number, imm8 * 256, and imm8
as a two's-complement number; pc advances by one, and nothing else changes. The canonical word of each is the one
its rule gives. Formalises R148, R149, R150. -/
def Obligations.ImmediateLoadsExtendTheByte : Prop :=
  ∀ (a : AcReg) (imm : Imm8) (s : State),
    encode (.lli a imm) = immWord 0x7800 a imm ∧ encode (.lui a imm) = immWord 0x7C00 a imm
    ∧ encode (.lsi a imm) = immWord 0x8000 a imm
    ∧ WritesAc (.lli a imm) s a (fun v => v.toNat = imm.toNat)
    ∧ WritesAc (.lui a imm) s a (fun v => v.toNat = imm.toNat * 256)
    ∧ WritesAc (.lsi a imm) s a (fun v => v.toInt = imm.toInt)

/-- For every constant K, lui with K[15:8] followed by ori with K[7:0] on the same ac register completes, leaves K in
it, moves pc on by two, and changes nothing else. Derived from spec/30_encoding.md section 5, the idiom for a 16-bit
constant. -/
def Obligations.LuiThenOriBuildsAConstant : Prop :=
  ∀ (K : Word) (a : AcReg) (s : State), ∃ t u,
    exec (.lui a (K.extractLsb' 8 8)) s = .next t ∧ exec (.ori a (K.extractLsb' 0 8)) t = .next u
    ∧ u.readAc a = K ∧ u.pc = s.pc + 2 ∧ Unchanged { ac := some a } s u

/-- Where the address rf[r1] + rf[r2] (modulo 2^16) is implemented, not guarded program text, and holds the word w, lwr
completes with ac[a] = w, pc advanced by one and nothing else changed. Outside MEM_MAP.data it faults with
DataRange, and on guarded program text with CodeAccess, each naming the address. Its canonical word is the one its
rule gives. Formalises R160. -/
def Obligations.LwrLoadsTheIndexedWord : Prop :=
  ∀ (a : AcReg) (r1 r2 : RfReg) (s : State) (ea : Word), ea = s.readRf r1 + s.readRf r2 →
    encode (.lwr a r1 r2) = regWord 0x8400 a r1 r2
    ∧ (∀ w : Word, s.accessible ea → s.mem.readWord ea = some w → WritesAc (.lwr a r1 r2) s a (fun v => v = w))
    ∧ (inRanges s.params.dataMap ea = false → exec (.lwr a r1 r2) s = .fault (.dataRange s.pc ea))
    ∧ (inRanges s.params.dataMap ea = true → inRanges s.params.codeText ea = true →
        exec (.lwr a r1 r2) s = .fault (.codeAccess s.pc ea))

/-- Where the address rf[r1] + rf[r2] (modulo 2^16) is implemented and not guarded program text, swr completes: the word
there becomes ac[a] (and with MEM_UNIFIED the instruction word there with it), every cell outside it reads as
before, pc advances by one and no register changes. Outside MEM_MAP.data it faults with DataRange, and on guarded
program text with CodeAccess. Its canonical word is the one its rule gives. Formalises R161. -/
def Obligations.SwrStoresTheIndexedWord : Prop :=
  ∀ (a : AcReg) (r1 r2 : RfReg) (s : State) (ea : Word), ea = s.indexedAddr r1 r2 →
    encode (.swr a r1 r2) = regWord 0x8800 a r1 r2
    ∧ ea = s.readRf r1 + s.readRf r2
    ∧ (s.accessible ea → ∃ t, exec (.swr a r1 r2) s = .next t ∧ t.mem.readWord ea = some (s.readAc a)
        ∧ t.pc = s.pc + 1 ∧ Unchanged { stored := some ea } s t
        ∧ (s.params.memUnified = true → t.instrMem.readWord ea = some (s.readAc a)))
    ∧ (inRanges s.params.dataMap ea = false → exec (.swr a r1 r2) s = .fault (.dataRange s.pc ea))
    ∧ (inRanges s.params.dataMap ea = true → inRanges s.params.codeText ea = true →
        exec (.swr a r1 r2) s = .fault (.codeAccess s.pc ea))

/-- Where sp - 1 (modulo 2^16) is implemented and not guarded program text, push completes: the word there becomes
ac[a], sp becomes sp - 1, every other cell reads as before, pc advances by one, and no register changes but the one
that holds sp (the dedicated register, or rf[i] where SP_LOC = rf(i)). Otherwise it faults with DataRange or
CodeAccess at sp - 1. Its canonical word is the one its rule gives. Formalises R162. -/
def Obligations.PushStoresAtTheDecrementedSp : Prop :=
  ∀ (a : AcReg) (s : State) (ea : Word), ea = s.pushAddr →
    encode (.push a) = regWord 0x8C00 a 0 0
    ∧ ea = s.readSp - 1
    ∧ (s.accessible ea → ∃ t, exec (.push a) s = .next t ∧ t.mem.readWord ea = some (s.readAc a)
        ∧ t.readSp = s.readSp - 1 ∧ t.pc = s.pc + 1
        ∧ Unchanged (Changes.withSp { stored := some ea } s.params) s t)
    ∧ (inRanges s.params.dataMap ea = false → exec (.push a) s = .fault (.dataRange s.pc ea))
    ∧ (inRanges s.params.dataMap ea = true → inRanges s.params.codeText ea = true →
        exec (.push a) s = .fault (.codeAccess s.pc ea))

/-- Where sp is implemented, not guarded program text, and the word there is w, pop completes: ac[a] becomes w, sp
becomes sp + 1 modulo 2^16, pc advances by one, no memory cell changes, and no other register changes (sp is the
dedicated register, or rf[i] where SP_LOC = rf(i)). Otherwise it faults with DataRange or CodeAccess at sp. Its
canonical word is the one its rule gives. Formalises R163. -/
def Obligations.PopLoadsAtTheOldSp : Prop :=
  ∀ (a : AcReg) (s : State) (ea : Word), ea = s.readSp →
    encode (.pop a) = regWord 0x9000 a 0 0
    ∧ (∀ w : Word, s.accessible ea → s.mem.readWord ea = some w →
        ∃ t, exec (.pop a) s = .next t ∧ t.readAc a = w ∧ t.readSp = s.readSp + 1 ∧ t.pc = s.pc + 1
          ∧ Unchanged (Changes.withSp { ac := some a } s.params) s t)
    ∧ (inRanges s.params.dataMap ea = false → exec (.pop a) s = .fault (.dataRange s.pc ea))
    ∧ (inRanges s.params.dataMap ea = true → inRanges s.params.codeText ea = true →
        exec (.pop a) s = .fault (.codeAccess s.pc ea))

/-- lwr and pop fault with UninitRead, naming the address, when the address is accessible but no word has been written
there. This is the fault option of R36, the choice of notes/assumptions/7.md. Derived from spec/10_state.md section
7, unspecified state; spec/92_eei_decisions.md D22. -/
def Obligations.UnwrittenWordsFaultOnLoad : Prop :=
  ∀ (a : AcReg) (r1 r2 : RfReg) (s : State),
    (s.accessible (s.readRf r1 + s.readRf r2) → s.mem.readWord (s.readRf r1 + s.readRf r2) = none →
        exec (.lwr a r1 r2) s = .fault (.uninitRead s.pc (s.readRf r1 + s.readRf r2)))
    ∧ (s.accessible s.readSp → s.mem.readWord s.readSp = none →
        exec (.pop a) s = .fault (.uninitRead s.pc s.readSp))

/-- Where sp - 1 is implemented and not guarded program text, push acx followed by pop acy completes, wherever sp lives:
ac[y] holds the old ac[x] and sp its old value, and no ac register but ac[y] changes. Derived from
spec/45_memory_access.md the rule of pop, corner cases. -/
def Obligations.PushThenPopCopiesAndRestoresSp : Prop :=
  ∀ (x y : AcReg) (s : State), s.accessible (s.readSp - 1) →
    ∃ t u, exec (.push x) s = .next t ∧ exec (.pop y) t = .next u
      ∧ u.readAc y = s.readAc x ∧ u.readSp = s.readSp ∧ ∀ b, b ≠ y → u.readAc b = s.readAc b

/-- jr and jrl always complete: pc becomes the start of its own 1024-word page plus imm10 (the page of the jump itself,
decision D11). jr changes nothing else; jrl also leaves pc + 1 modulo 2^16 in lk and changes no register but the one
that holds lk (the dedicated register, or rf[i] where LK_LOC = rf(i)). Derived from spec/46_control.md section 1,
the rules of jr and jrl; spec/92_eei_decisions.md D11, D12. -/
def Obligations.PageJumpsKeepThePageOfTheJump : Prop :=
  ∀ (imm : Imm10) (s : State),
    (∃ t, exec (.jr imm) s = .next t ∧ t.pc.toNat = s.pc.toNat / 1024 * 1024 + imm.toNat ∧ Unchanged {} s t)
    ∧ (∃ t, exec (.jrl imm) s = .next t ∧ t.pc.toNat = s.pc.toNat / 1024 * 1024 + imm.toNat
        ∧ t.readLk = s.pc + 1 ∧ Unchanged (Changes.withLk {} s.params) s t)

/-- ja always completes: pc becomes all 16 bits of rf[r1], lk is not written, and no other register and no memory cell
changes. Its canonical word is the one its rule gives. Formalises R172. -/
def Obligations.JaJumpsToTheRegister : Prop :=
  ∀ (r1 : RfReg) (s : State),
    encode (.ja r1) = regWord 0x9C00 0 r1 0 ∧ JumpsTo (.ja r1) s (s.readRf r1)

/-- jal always completes: pc becomes the value rf[r1] had before the instruction, lk holds pc + 1 modulo 2^16, and no
register but the one that holds lk changes. Where LK_LOC = rf(r1) the target is still the old value (decision D13;
notes/assumptions/17.md). Derived from spec/46_control.md section 1, the rule of jal; spec/92_eei_decisions.md D12,
D13. -/
def Obligations.JalReadsItsTargetBeforeLinking : Prop :=
  ∀ (r1 : RfReg) (s : State), ∃ t, exec (.jal r1) s = .next t ∧ t.pc = s.readRf r1 ∧ t.readLk = s.pc + 1
    ∧ Unchanged (Changes.withLk {} s.params) s t

/-- For every 16-bit value: > 0 holds exactly when bit 15 is 0 and the value is not zero, < 0 exactly when bit 15 is 1,
== 0 and != 0 exactly when the value is and is not zero; > 0 and < 0 agree with the two's-complement value; and
exactly one of > 0, < 0 and == 0 holds (decision D9). Derived from spec/46_control.md section 2, the table of the
four conditions; spec/92_eei_decisions.md D9. -/
def Obligations.BranchConditionsAreSignedTests : Prop :=
  ∀ v : Word,
    (gtZero v = true ↔ v.getLsbD 15 = false ∧ v ≠ 0#16) ∧ (ltZero v = true ↔ v.getLsbD 15 = true)
    ∧ (eqZero v = true ↔ v = 0#16) ∧ (neZero v = true ↔ v ≠ 0#16)
    ∧ (gtZero v = true ↔ 0 < v.toInt) ∧ (ltZero v = true ↔ v.toInt < 0)
    ∧ ((gtZero v = true ∧ ltZero v = false ∧ eqZero v = false)
      ∨ (gtZero v = false ∧ ltZero v = true ∧ eqZero v = false)
      ∨ (gtZero v = false ∧ ltZero v = false ∧ eqZero v = true))

/-- Each of the four immediate branches always completes and changes nothing but pc. When its condition on ac[a] fails,
pc becomes pc + 1; when it holds, pc becomes pc + 1 plus imm8 modulo 2^16, imm8 read in two's complement when
BRANCH_IMM_SIGNED and as an unsigned number when not (decision D8; notes/assumptions/10.md). Derived from
spec/46_control.md section 2, common rules of the branches and the rules of bgtz, bltz, beqz, bnez;
spec/92_eei_decisions.md D8, D9. -/
def Obligations.ImmediateBranchesAddTheDisplacement : Prop :=
  ∀ (a : AcReg) (imm : Imm8) (s : State) (target : Word),
    (target.toNat : ℤ) =
        ((s.pc.toNat : ℤ) + 1 + (if s.params.branchImmSigned then imm.toInt else (imm.toNat : ℤ))) % 65536 →
    JumpsTo (.bgtz a imm) s (if 0 < (s.readAc a).toInt then target else s.pc + 1)
    ∧ JumpsTo (.bltz a imm) s (if (s.readAc a).toInt < 0 then target else s.pc + 1)
    ∧ JumpsTo (.beqz a imm) s (if s.readAc a = 0#16 then target else s.pc + 1)
    ∧ JumpsTo (.bnez a imm) s (if s.readAc a ≠ 0#16 then target else s.pc + 1)

/-- beqzr and bnezr always complete and change nothing but pc: when ac[a] is zero (beqzr), or not zero (bnezr), pc
becomes rf[r1], and otherwise pc + 1. The canonical word of each is the one its rule gives. Formalises R181, R182. -/
def Obligations.ZeroTestRegisterBranchesGoToTheRegister : Prop :=
  ∀ (a : AcReg) (r1 : RfReg) (s : State),
    encode (.beqzr a r1) = regWord 0xBC00 a r1 0 ∧ encode (.bnezr a r1) = regWord 0xC000 a r1 0
    ∧ JumpsTo (.beqzr a r1) s (if s.readAc a = 0#16 then s.readRf r1 else s.pc + 1)
    ∧ JumpsTo (.bnezr a r1) s (if s.readAc a ≠ 0#16 then s.readRf r1 else s.pc + 1)

/-- bgtzr and bltzr always complete and change nothing but pc: when the two's-complement value of ac[a] is above zero
(bgtzr), or below zero (bltzr), pc becomes rf[r1], and otherwise pc + 1 (decision D9). Derived from
spec/46_control.md section 2, the rules of bgtzr and bltzr; spec/92_eei_decisions.md D9. -/
def Obligations.SignTestRegisterBranchesGoToTheRegister : Prop :=
  ∀ (a : AcReg) (r1 : RfReg) (s : State),
    JumpsTo (.bgtzr a r1) s (if (s.readAc a).getLsbD 15 = false ∧ s.readAc a ≠ 0#16 then s.readRf r1 else s.pc + 1)
    ∧ JumpsTo (.bltzr a r1) s (if (s.readAc a).getLsbD 15 = true then s.readRf r1 else s.pc + 1)

/-- exec of any instruction on any state answers a next state, unless the instruction is lwr, swr, push or pop, which
may fault; no instruction is ever refused. Derived from spec/60_exceptions.md section 1, which instruction can
fault. -/
def Obligations.OnlyDataAccessesCanStop : Prop :=
  ∀ (i : Instr) (s : State),
    ((∃ t, exec i s = .next t)
      ∨ ∃ f, exec i s = .fault f
          ∧ ((∃ a r1 r2, i = .lwr a r1 r2) ∨ (∃ a r1 r2, i = .swr a r1 r2) ∨ (∃ a, i = .push a) ∨ ∃ a, i = .pop a))
    ∧ ∀ r, exec i s ≠ .refused r

/-- When exec faults, there is one address for which the fault is: DataRange if the address is not implemented; else
CodeAccess if it holds guarded program text; else UninitRead, and then no word has been written there. The fault
carries the pc of the instruction. Derived from spec/60_exceptions.md section 1, priority; spec/92_eei_decisions.md
D19. -/
def Obligations.FaultsNameTheInstructionAndFollowThePriority : Prop :=
  ∀ (i : Instr) (s : State) (f : Fault), exec i s = .fault f → ∃ ea : Word,
    (inRanges s.params.dataMap ea = false ∧ f = .dataRange s.pc ea)
    ∨ (inRanges s.params.dataMap ea = true ∧ inRanges s.params.codeText ea = true ∧ f = .codeAccess s.pc ea)
    ∨ (s.accessible ea ∧ s.mem.readWord ea = none ∧ f = .uninitRead s.pc ea)

/-- From every state whose two memories are in canonical form (cells rising, inside the 65536 words, every listed word
whole) and whose parameters are well-formed, a step that answers a next state answers one with the same properties.
The canonical form is the model's own (notes/assumptions/8.md). Derived from spec/20_memory.md sections 1 and 2;
spec/00_scope.md section 3, parameters. -/
def Obligations.StepKeepsTheInvariant : Prop :=
  ∀ s t : State, s.Inv → step s = .next t → t.Inv

/-- The invariant every step keeps holds at reset; the values the parameters have there are the model's choice
(notes/assumptions/1.md to 4.md, 6.md and 29.md). Derived from spec/70_reset_and_hazards.md section 1, reset state;
spec/92_eei_decisions.md D21. -/
def Obligations.ResetSatisfiesTheInvariant : Prop :=
  State.reset.Inv

/-- At reset every word of data memory and of instruction memory is unwritten (no image is loaded yet), and pc is
0x0000, the model's choice for RESET_PC (notes/assumptions/4.md, 7.md). Derived from spec/10_state.md section 7,
reset values; spec/92_eei_decisions.md D21, D22. -/
def Obligations.ResetLeavesMemoryWithoutValues : Prop :=
  (∀ a : Word, State.reset.mem.readWord a = none ∧ State.reset.instrMem.readWord a = none)
    ∧ State.reset.pc = 0x0000#16

/-- The parameters, which the model carries in its state, are the same after every step: they are fixed for a machine.
Derived from spec/00_scope.md section 5: the parameters are not state. -/
def Obligations.StepKeepsTheParameters : Prop :=
  ∀ s t : State, step s = .next t → t.params = s.params

/-- If exec of i changes ac[b], then the ac field of i is b and i is one of the instructions listed as writing ac[a]:
those with opcodes 1 to 12, 16, 18, 19, 21 to 33 and 36; in particular none of the mtl mth mfac swr push branches,
nope tmul tdiv and jumps. Derived from spec/10_state.md section 1, access to the ac bank. -/
def Obligations.OnlyTheNamedInstructionsWriteTheAcBank : Prop :=
  ∀ (i : Instr) (s t : State) (b : AcReg), exec i s = .next t → t.readAc b ≠ s.readAc b →
    acField (encode i) = b ∧ i.opcode.toNat ∈ [1, 2, 3, 4, 5, 6, 7, 8, 9, 10, 11, 12, 16, 18, 19, 21, 22, 23, 24, 25, 26,
      27, 28, 29, 30, 31, 32, 33, 36]

/-- If exec of i changes rf[r], then i is mfac to r; or SP_LOC = rf(r) and i is push or pop; or LK_LOC = rf(r) and i is
jrl or jal. With both locations dedicated, only mfac writes the rf bank. Derived from spec/10_state.md section 2,
access to the rf bank; section 4, sp and lk. -/
def Obligations.OnlyMfacWritesTheRfBank : Prop :=
  ∀ (i : Instr) (s t : State) (r : RfReg), exec i s = .next t → t.readRf r ≠ s.readRf r →
    (∃ a, i = .mfac a r)
    ∨ (s.params.spLoc = .rf r ∧ ((∃ a, i = .push a) ∨ ∃ a, i = .pop a))
    ∨ (s.params.lkLoc = .rf r ∧ ((∃ imm, i = .jrl imm) ∨ ∃ r1, i = .jal r1))

/-- hi changes only by mth, tmul and tdiv; lo only by mtl, tmul and tdiv; the dedicated sp only by push and pop, with
SP_LOC = dedicated; the dedicated lk only by jrl and jal, with LK_LOC = dedicated. Derived from spec/10_state.md the
table of the whole state. -/
def Obligations.HiLoSpAndLkHaveFewWriters : Prop :=
  ∀ (i : Instr) (s t : State), exec i s = .next t →
    (t.hi ≠ s.hi → (∃ a, i = .mth a) ∨ (∃ r, i = .tmul r) ∨ ∃ r, i = .tdiv r)
    ∧ (t.lo ≠ s.lo → (∃ a, i = .mtl a) ∨ (∃ r, i = .tmul r) ∨ ∃ r, i = .tdiv r)
    ∧ (t.sp ≠ s.sp → s.params.spLoc = .dedicated ∧ ((∃ a, i = .push a) ∨ ∃ a, i = .pop a))
    ∧ (t.lk ≠ s.lk → s.params.lkLoc = .dedicated ∧ ((∃ imm, i = .jrl imm) ∨ ∃ r1, i = .jal r1))

/-- If exec of i changes what a cell of data memory reads, then i is swr and the cell belongs to the word at rf[r1] +
rf[r2], or i is push and it belongs to the word at sp - 1. No instruction changes a cell of the separate instruction
memory. Derived from spec/20_memory.md section 1; section 3, widths; spec/92_eei_decisions.md D14. -/
def Obligations.OnlySwrAndPushWriteMemory : Prop :=
  ∀ (i : Instr) (s t : State), exec i s = .next t →
    (∀ k : Nat, t.mem.read k ≠ s.mem.read k →
      (∃ a r1 r2, i = .swr a r1 r2 ∧ (k = lowCell (s.indexedAddr r1 r2) ∨ k = highCell (s.indexedAddr r1 r2)))
      ∨ ∃ a, i = .push a ∧ (k = lowCell s.pushAddr ∨ k = highCell s.pushAddr))
    ∧ t.imem = s.imem

/-- If exec of i leaves a pc other than pc + 1 modulo 2^16, then i is one of the twelve control instructions, the rows
with opcodes 37 to 48 (decision D10). Derived from spec/10_state.md section 5, advance; spec/92_eei_decisions.md
D10. -/
def Obligations.OnlyControlInstructionsLeaveTheSequence : Prop :=
  ∀ (i : Instr) (s t : State), exec i s = .next t → t.pc ≠ s.pc + 1 → 37 ≤ i.opcode.toNat

/-- If MEM_UNIFIED is false, instruction memory is the same after every step. Derived from spec/20_memory.md sections 1
and 5, instruction-fetch coherence; spec/92_eei_decisions.md D14, D26. -/
def Obligations.SeparateInstructionMemoryIsNeverWritten : Prop :=
  ∀ s t : State, s.params.memUnified = false → step s = .next t → t.instrMem = s.instrMem

/-- If MEM_UNIFIED is true and swr stores at the implemented address pc + 1, then the next fetch reads the stored word
(decision D26; notes/assumptions/3.md). Derived from spec/20_memory.md section 5, instruction-fetch coherence;
spec/92_eei_decisions.md D26. -/
def Obligations.UnifiedStoreIsSeenByTheNextFetch : Prop :=
  ∀ (a : AcReg) (r1 r2 : RfReg) (s t : State), s.params.memUnified = true →
    inRanges s.params.instrMap (s.pc + 1) = true → s.indexedAddr r1 r2 = s.pc + 1 →
    exec (.swr a r1 r2) s = .next t → t.fetch = .ok (s.readAc a)

/-- With LK_LOC = dedicated, a step from a state whose lk is replaced by any value faults or goes on exactly as the step
from the state itself, with the same fault, and with next states that differ at most in lk. Derived from
spec/10_state.md section 4, lk. -/
def Obligations.DedicatedLkNeverInfluencesAnything : Prop :=
  ∀ (s : State) (v : Word), s.params.lkLoc = .dedicated →
    (∀ t, step s = .next t → ∃ t', step (s.setLkReg v) = .next t' ∧ t'.setLkReg t.lk = t)
    ∧ (∀ f, step s = .fault f → step (s.setLkReg v) = .fault f)

/-- At a terminal state (the word at pc is a jr to its own address) a step answers the same state. Derived from
spec/70_reset_and_hazards.md section 3, end of a run; spec/92_eei_decisions.md D23. -/
def Obligations.HaltIdiomIsAFixedPoint : Prop :=
  ∀ s : State, s.halted = true → step s = .next s

/-- If a run of at most k steps ends at t, then t is terminal, and a run of any larger number of steps from the same
state ends at t; if it ends in a fault, so does every longer run, with the same fault. Derived from
spec/70_reset_and_hazards.md section 3, end of a run; spec/92_eei_decisions.md D23. -/
def Obligations.EndedRunsStayEnded : Prop :=
  ∀ (k j : Nat) (s : State), k ≤ j →
    (∀ t, runUntilHalt k s = .final t → t.halted = true ∧ runUntilHalt j s = .final t)
    ∧ (∀ f, runUntilHalt k s = .faulted f → runUntilHalt j s = .faulted f)

/-- From any state with hi = 0, sixteen executions of tmul r2 complete and leave hi * 65536 + lo = rf[r2] * (old lo), if
TMUL_TOP_BIT = carry or if rf[r2] is at most 0x8000; nothing but hi, lo and pc changes. Derived from
spec/41_logical_arithmetic.md section 3, multiplication sequence; spec/92_eei_decisions.md D5. -/
def Obligations.SixteenTmulStepsMultiply : Prop :=
  ∀ (r2 : RfReg) (s : State), s.hi = 0#16 →
    s.params.tmulTopBit = .carry ∨ (s.readRf r2).toNat ≤ 0x8000 →
    ∃ t, execTimes 16 (.tmul r2) s = .next t ∧ t.hi.toNat * 65536 + t.lo.toNat = (s.readRf r2).toNat * s.lo.toNat
      ∧ t.pc = s.pc + 16 ∧ Unchanged { hi := true, lo := true } s t

/-- From any state with hi = 0 and a divisor rf[r2] from 1 to 0x8000, seventeen executions of tdiv r2 complete and leave
NOT lo = (old lo) div rf[r2] and hi >>u 1 = (old lo) mod rf[r2]; nothing but hi, lo and pc changes. Derived from
spec/41_logical_arithmetic.md section 3, division sequence. -/
def Obligations.SeventeenTdivStepsDivide : Prop :=
  ∀ (r2 : RfReg) (s : State), s.hi = 0#16 → 1 ≤ (s.readRf r2).toNat → (s.readRf r2).toNat ≤ 0x8000 →
    ∃ t, execTimes 17 (.tdiv r2) s = .next t
      ∧ (~~~t.lo).toNat = s.lo.toNat / (s.readRf r2).toNat
      ∧ (t.hi >>> 1).toNat = s.lo.toNat % (s.readRf r2).toNat
      ∧ t.pc = s.pc + 17 ∧ Unchanged { hi := true, lo := true } s t

/-- From any state with hi = 0 and rf[r2] = 0, seventeen executions of tdiv r2 complete and leave lo = 0 and hi = (old
lo) << 1 with bit 15 lost: no trap and no quotient. Derived from spec/41_logical_arithmetic.md section 3, division
sequence, zero divisor. -/
def Obligations.TdivByZeroShiftsTheDividendOut : Prop :=
  ∀ (r2 : RfReg) (s : State), s.hi = 0#16 → s.readRf r2 = 0#16 →
    ∃ t, execTimes 17 (.tdiv r2) s = .next t ∧ t.lo = 0#16 ∧ t.hi = s.lo <<< 1

/-- If two memories are in the canonical form and every word address reads alike in both, they are equal as data:
comparing states compares memories as the machine sees them. Derived from spec/20_memory.md section 1, addressing
(the cells are the model's own, notes/assumptions/8.md). -/
def Obligations.CanonicalMemoriesThatReadAlikeAreEqual : Prop :=
  ∀ m n : Memory, m.wf = true → n.wf = true → (∀ a : Word, m.readWord a = n.readWord a) → m = n

/-- If a run of at most k steps from s ends at t, then t is terminal, some number j of steps, at most k, leads from s to
t, and no fewer steps lead to a terminal state. If it ends in a fault, then a step faults so after j steps, fewer
than k, and neither the state there nor one before it is terminal. If it has not ended, then k steps lead to t, and
no state on the way, t included, is terminal. The terminal states are those of the idiom of D23
(notes/assumptions/23.md). Derived from spec/70_reset_and_hazards.md section 3, end of a run;
spec/92_eei_decisions.md D23. -/
def Obligations.RunStopsAtTheFirstTerminalState : Prop :=
  ∀ (k : Nat) (s : State),
    (∀ t, runUntilHalt k s = .final t → t.halted = true ∧ ∃ j ≤ k, Sys2Proof.core.run j s = .next t
        ∧ ∀ i < j, ∃ u, Sys2Proof.core.run i s = .next u ∧ State.halted u = false)
    ∧ (∀ f, runUntilHalt k s = .faulted f → ∃ j < k, (∃ u, Sys2Proof.core.run j s = .next u ∧ step u = .fault f)
        ∧ ∀ i ≤ j, ∃ u, Sys2Proof.core.run i s = .next u ∧ State.halted u = false)
    ∧ (∀ t, runUntilHalt k s = .running t → Sys2Proof.core.run k s = .next t
        ∧ ∀ i ≤ k, ∃ u, Sys2Proof.core.run i s = .next u ∧ State.halted u = false)

/-- The start state of a machine with the parameters p has pc = RESET_PC as p gives it, the parameters p, and no value
in any word of either memory; State.reset is that start state for the values the model chose
(notes/assumptions/4.md, 7.md). Derived from spec/70_reset_and_hazards.md section 1, reset state;
spec/92_eei_decisions.md D21. -/
def Obligations.StartStateFollowsItsParameters : Prop :=
  (∀ p : Params, (State.initial p).pc = p.resetPc ∧ (State.initial p).params = p
      ∧ ∀ a : Word, (State.initial p).mem.readWord a = none ∧ (State.initial p).instrMem.readWord a = none)
    ∧ State.reset = State.initial initialParams

/-- An image file holds the high byte of each word first in the order big and the low byte first in the order little.
Loading the image of a list of at most 65536 words, in the order of the parameter, succeeds: word k stands at
address base + k (modulo 2^16) of instruction memory (a program) or of data memory (data), every other word there
reads as before, and no register and no parameter changes. The form of an image is the model's own
(notes/assumptions/29.md). Derived from spec/70_reset_and_hazards.md section 2, host; spec/20_memory.md section 3,
byte order; spec/92_eei_decisions.md D24, D31. -/
def Obligations.LoadedImageReadsBackInEitherByteOrder : Prop :=
  (∀ w : Word, imageOfWords .big [w] = [w.extractLsb' 8 8, w.extractLsb' 0 8]
      ∧ imageOfWords .little [w] = [w.extractLsb' 0 8, w.extractLsb' 8 8])
    ∧ ∀ (s : State) (base : Word) (ws : List Word), ws.length ≤ 65536 →
      (∃ t, s.loadProgramImage base (imageOfWords s.params.imageByteOrder ws) = some t
        ∧ (∀ k w, ws[k]? = some w → t.instrMem.readWord (base + BitVec.ofNat 16 k) = some w)
        ∧ (∀ a, (∀ k < ws.length, a ≠ base + BitVec.ofNat 16 k) → t.instrMem.readWord a = s.instrMem.readWord a)
        ∧ t.ac = s.ac ∧ t.rf = s.rf ∧ t.hi = s.hi ∧ t.lo = s.lo ∧ t.sp = s.sp ∧ t.lk = s.lk ∧ t.pc = s.pc
        ∧ t.params = s.params)
      ∧ ∃ t, s.loadDataImage base (imageOfWords s.params.imageByteOrder ws) = some t
        ∧ (∀ k w, ws[k]? = some w → t.mem.readWord (base + BitVec.ofNat 16 k) = some w)
        ∧ (∀ a, (∀ k < ws.length, a ≠ base + BitVec.ofNat 16 k) → t.mem.readWord a = s.mem.readWord a)
        ∧ t.ac = s.ac ∧ t.rf = s.rf ∧ t.hi = s.hi ∧ t.lo = s.lo ∧ t.sp = s.sp ∧ t.lk = s.lk ∧ t.pc = s.pc
        ∧ t.params = s.params

/-- If a step goes on or faults, then the step from the same state with any other values of the parameters
IMAGE_BYTE_ORDER and RESET_PC goes on to the same state but for those two parameters, or faults with the same fault.
Derived from spec/20_memory.md section 3, byte order; spec/00_scope.md section 3, parameters;
spec/92_eei_decisions.md D21, D24. -/
def Obligations.ImageByteOrderAndResetPcInfluenceNoStep : Prop :=
  ∀ (s : State) (o : ByteOrder) (v : Word),
    (∀ t, step s = .next t →
      step { s with params := { s.params with imageByteOrder := o, resetPc := v } }
        = .next { t with params := { t.params with imageByteOrder := o, resetPc := v } })
    ∧ ∀ f, step s = .fault f → step { s with params := { s.params with imageByteOrder := o, resetPc := v } } = .fault f
end

