-- ==== Sys2Proof/Laws/Encode.lean ====
section
/-! SUPPORT. Every field of an encoded word reads back as the field that was encoded (R66). -/

namespace Sys2Proof

theorem toNat_append_eq_add {m n : Nat} (x : BitVec m) (y : BitVec n) : (x ++ y).toNat = x.toNat * 2 ^ n + y.toNat := by
  rw [BitVec.toNat_append, ← Nat.shiftLeft_add_eq_or_of_lt y.isLt, Nat.shiftLeft_eq]

theorem encodeR_toNat (op : BitVec 6) (a : AcReg) (r1 r2 : RfReg) :
    (encodeR op a r1 r2).toNat = op.toNat * 1024 + a.toNat * 256 + r1.toNat * 16 + r2.toNat := by
  have h : (encodeR op a r1 r2).toNat = (op ++ a ++ r1 ++ r2).toNat := rfl
  rw [h, toNat_append_eq_add, toNat_append_eq_add, toNat_append_eq_add]; omega

theorem encodeI_toNat (op : BitVec 6) (a : AcReg) (imm : Imm8) :
    (encodeI op a imm).toNat = op.toNat * 1024 + a.toNat * 256 + imm.toNat := by
  have h : (encodeI op a imm).toNat = (op ++ a ++ imm).toNat := rfl
  rw [h, toNat_append_eq_add, toNat_append_eq_add]; omega

theorem encodeJ_toNat (op : BitVec 6) (imm : Imm10) : (encodeJ op imm).toNat = op.toNat * 1024 + imm.toNat := by
  have h : (encodeJ op imm).toNat = (op ++ imm).toNat := rfl
  rw [h, toNat_append_eq_add]; omega

/-- A field of a word, as a number. -/
theorem extractLsb'_toNat_eq (w : Word) (i n : Nat) : (w.extractLsb' i n).toNat = w.toNat / 2 ^ i % 2 ^ n := by
  rw [BitVec.extractLsb'_toNat, Nat.shiftRight_eq_div_pow]

@[simp] theorem opcodeField_encodeR (op : BitVec 6) (a : AcReg) (r1 r2 : RfReg) :
    opcodeField (encodeR op a r1 r2) = op := by
  rw [← BitVec.toNat_inj, opcodeField, extractLsb'_toNat_eq, encodeR_toNat]; omega

@[simp] theorem acField_encodeR (op : BitVec 6) (a : AcReg) (r1 r2 : RfReg) : acField (encodeR op a r1 r2) = a := by
  rw [← BitVec.toNat_inj, acField, extractLsb'_toNat_eq, encodeR_toNat]; omega

@[simp] theorem rf1Field_encodeR (op : BitVec 6) (a : AcReg) (r1 r2 : RfReg) : rf1Field (encodeR op a r1 r2) = r1 := by
  rw [← BitVec.toNat_inj, rf1Field, extractLsb'_toNat_eq, encodeR_toNat]; omega

@[simp] theorem rf2Field_encodeR (op : BitVec 6) (a : AcReg) (r1 r2 : RfReg) : rf2Field (encodeR op a r1 r2) = r2 := by
  rw [← BitVec.toNat_inj, rf2Field, extractLsb'_toNat_eq, encodeR_toNat]; omega

@[simp] theorem opcodeField_encodeS (op : BitVec 6) (a : AcReg) (r1 : RfReg) (n : Shamt) :
    opcodeField (encodeS op a r1 n) = op := opcodeField_encodeR op a r1 n

@[simp] theorem acField_encodeS (op : BitVec 6) (a : AcReg) (r1 : RfReg) (n : Shamt) :
    acField (encodeS op a r1 n) = a := acField_encodeR op a r1 n

@[simp] theorem rf1Field_encodeS (op : BitVec 6) (a : AcReg) (r1 : RfReg) (n : Shamt) :
    rf1Field (encodeS op a r1 n) = r1 := rf1Field_encodeR op a r1 n

@[simp] theorem shamtField_encodeS (op : BitVec 6) (a : AcReg) (r1 : RfReg) (n : Shamt) :
    shamtField (encodeS op a r1 n) = n := rf2Field_encodeR op a r1 n

@[simp] theorem opcodeField_encodeI (op : BitVec 6) (a : AcReg) (imm : Imm8) : opcodeField (encodeI op a imm) = op := by
  rw [← BitVec.toNat_inj, opcodeField, extractLsb'_toNat_eq, encodeI_toNat]; omega

@[simp] theorem acField_encodeI (op : BitVec 6) (a : AcReg) (imm : Imm8) : acField (encodeI op a imm) = a := by
  rw [← BitVec.toNat_inj, acField, extractLsb'_toNat_eq, encodeI_toNat]; omega

@[simp] theorem imm8Field_encodeI (op : BitVec 6) (a : AcReg) (imm : Imm8) : imm8Field (encodeI op a imm) = imm := by
  rw [← BitVec.toNat_inj, imm8Field, extractLsb'_toNat_eq, encodeI_toNat]; omega

@[simp] theorem opcodeField_encodeJ (op : BitVec 6) (imm : Imm10) : opcodeField (encodeJ op imm) = op := by
  rw [← BitVec.toNat_inj, opcodeField, extractLsb'_toNat_eq, encodeJ_toNat]; omega

@[simp] theorem imm10Field_encodeJ (op : BitVec 6) (imm : Imm10) : imm10Field (encodeJ op imm) = imm := by
  rw [← BitVec.toNat_inj, imm10Field, extractLsb'_toNat_eq, encodeJ_toNat]; omega

@[simp] theorem opcodeField_encodeN (op : BitVec 6) : opcodeField (encodeN op) = op := opcodeField_encodeJ op 0

end Sys2Proof
end

