-- ==== Sys2Proof/Laws/Memory.lean ====
section
/-! SUPPORT. The laws of memory: a read after a write, what a write leaves alone, and that a word write keeps the
canonical form. -/

namespace Sys2Proof.Machine

/-! ## Bytes of a word -/

@[simp] theorem wordOfBytes_lo_hi (w : Word) : wordOfBytes (loByte w) (hiByte w) = w := by
  unfold wordOfBytes loByte hiByte
  ext i hi
  simp only [BitVec.getElem_append, BitVec.getElem_extractLsb']
  split
  · simp [BitVec.getLsbD_eq_getElem, hi]
  · rw [show 8 + (i - 8) = i by omega, BitVec.getLsbD_eq_getElem hi]

@[simp] theorem loByte_wordOfBytes (lo hi : Byte) : loByte (wordOfBytes lo hi) = lo := by
  unfold wordOfBytes loByte
  ext i h
  rw [BitVec.getElem_extractLsb', Nat.zero_add]
  exact (BitVec.getLsbD_append (x := hi) (y := lo)).trans (by simp [h, BitVec.getLsbD_eq_getElem])

@[simp] theorem hiByte_wordOfBytes (lo hi : Byte) : hiByte (wordOfBytes lo hi) = hi := by
  unfold wordOfBytes hiByte
  ext i h
  rw [BitVec.getElem_extractLsb']
  exact (BitVec.getLsbD_append (x := hi) (y := lo)).trans (by simp [h, BitVec.getLsbD_eq_getElem])

/-! ## Cells -/

theorem lowCell_ne_highCell (a b : Word) : lowCell a ≠ highCell b := by
  unfold lowCell highCell; omega

@[simp] theorem lowCell_inj {a b : Word} : lowCell a = lowCell b ↔ a = b := by
  unfold lowCell; rw [← BitVec.toNat_inj]; omega

@[simp] theorem highCell_inj {a b : Word} : highCell a = highCell b ↔ a = b := by
  unfold highCell; rw [← BitVec.toNat_inj]; omega

theorem lowCell_lt (a : Word) : lowCell a < 131072 := by unfold lowCell; omega

theorem highCell_lt (a : Word) : highCell a < 131072 := by unfold highCell; omega

@[simp] theorem otherCell_lowCell (a : Word) : otherCell (lowCell a) = highCell a := by
  unfold otherCell lowCell highCell; rw [if_pos (by omega)]

@[simp] theorem otherCell_highCell (a : Word) : otherCell (highCell a) = lowCell a := by
  unfold otherCell lowCell highCell; rw [if_neg (by omega)]; omega

/-! ## One cell -/

/-- Reading after a write of one cell. No canonical form is needed. -/
theorem Memory.read_write (m : Memory) (k j : Nat) (v : Byte) :
    (m.write k v).read j = if j = k then some v else m.read j := by
  induction m with
  | nil => simp [Memory.write, Memory.read, eq_comm]
  | cons c m ih =>
    obtain ⟨i, u⟩ := c
    unfold Memory.write
    split
    · simp only [Memory.read, eq_comm (a := k)]
    · split
      · subst_vars; by_cases h : j = i <;> simp [Memory.read, h, eq_comm]
      · simp only [Memory.read, ih]
        split <;> split <;> simp_all

@[simp] theorem Memory.read_write_same (m : Memory) (k : Nat) (v : Byte) : (m.write k v).read k = some v := by
  simp [Memory.read_write]

theorem Memory.read_write_ne (m : Memory) {k j : Nat} (v : Byte) (h : j ≠ k) : (m.write k v).read j = m.read j := by
  simp [Memory.read_write, h]

/-! ## One word -/

/-- Reading one cell after a write of a word. -/
theorem Memory.read_writeWord (m : Memory) (a v : Word) (k : Nat) :
    (m.writeWord a v).read k
      = if k = highCell a then some (hiByte v) else if k = lowCell a then some (loByte v) else m.read k := by
  simp [Memory.writeWord, Memory.read_write]

/-- A word write leaves every cell of every other word alone (R43). -/
theorem Memory.read_writeWord_outside (m : Memory) (a v : Word) {k : Nat} (hl : k ≠ lowCell a) (hh : k ≠ highCell a) :
    (m.writeWord a v).read k = m.read k := by
  simp [Memory.read_writeWord, hl, hh]

@[simp] theorem Memory.readWord_writeWord_same (m : Memory) (a v : Word) :
    (m.writeWord a v).readWord a = some v := by
  simp [Memory.readWord, Memory.read_writeWord, lowCell_ne_highCell]

theorem Memory.readWord_writeWord_ne (m : Memory) {a b : Word} (v : Word) (h : b ≠ a) :
    (m.writeWord a v).readWord b = m.readWord b := by
  unfold Memory.readWord
  rw [Memory.read_writeWord_outside m a v (by simpa using h) (lowCell_ne_highCell b a),
    Memory.read_writeWord_outside m a v (lowCell_ne_highCell a b).symm (by simpa using h)]

/-- Reading a word after a write of a word. -/
theorem Memory.readWord_writeWord (m : Memory) (a b v : Word) :
    (m.writeWord a v).readWord b = if b = a then some v else m.readWord b := by
  split
  · subst_vars; simp
  · exact Memory.readWord_writeWord_ne m v ‹_›

/-- A word is read exactly when both of its cells hold a value. -/
theorem Memory.readWord_eq_some {m : Memory} {a w : Word} :
    m.readWord a = some w ↔ m.read (lowCell a) = some (loByte w) ∧ m.read (highCell a) = some (hiByte w) := by
  unfold Memory.readWord
  split
  · rename_i lo hi hlo hhi
    simp only [Option.some.injEq, hlo, hhi]
    constructor
    · rintro rfl; simp
    · rintro ⟨rfl, rfl⟩; simp
  · rename_i h
    simp only [reduceCtorEq, false_iff, not_and]
    exact fun h1 h2 => h _ _ h1 h2

/-! ## The canonical form -/

theorem Memory.mem_write {m : Memory} {k : Nat} {v : Byte} {c : Host.Cell} (h : c ∈ m.write k v) :
    c = (k, v) ∨ c ∈ m := by
  induction m with
  | nil => simpa [Memory.write] using h
  | cons d m ih =>
    obtain ⟨j, u⟩ := d
    unfold Memory.write at h
    split at h
    · simpa using h
    · split at h
      · simp only [List.mem_cons] at h ⊢; tauto
      · simp only [List.mem_cons] at h ⊢
        rcases h with h | h
        · exact Or.inr (Or.inl h)
        · exact (ih h).imp_right Or.inr

/-- `sorted` says the addresses rise pairwise. -/
theorem Memory.sorted_iff_pairwise (m : Memory) : m.sorted = true ↔ m.Pairwise (fun c d => c.1 < d.1) := by
  induction m with
  | nil => simp [Memory.sorted]
  | cons c m ih =>
    cases m with
    | nil => simp [Memory.sorted]
    | cons d m =>
      simp only [Memory.sorted, Bool.and_eq_true, decide_eq_true_eq, ih, List.pairwise_cons, List.mem_cons]
      constructor
      · rintro ⟨hcd, hd, hm⟩
        refine ⟨?_, hd, hm⟩
        rintro x (rfl | hx)
        · exact hcd
        · exact hcd.trans (hd x hx)
      · rintro ⟨h, hd, hm⟩
        exact ⟨h d (Or.inl rfl), hd, hm⟩

/-- A cell write keeps the addresses rising. -/
theorem Memory.sorted_write {m : Memory} (k : Nat) (v : Byte) (h : m.sorted = true) : (m.write k v).sorted = true := by
  rw [Memory.sorted_iff_pairwise] at h ⊢
  induction m with
  | nil => simp [Memory.write]
  | cons c m ih =>
    obtain ⟨j, u⟩ := c
    rw [List.pairwise_cons] at h
    unfold Memory.write
    split
    · rename_i hkj
      refine List.pairwise_cons.2 ⟨?_, List.pairwise_cons.2 h⟩
      intro x hx
      rcases List.mem_cons.1 hx with rfl | hx
      · exact hkj
      · exact hkj.trans (h.1 x hx)
    · split
      · subst_vars; exact List.pairwise_cons.2 h
      · refine List.pairwise_cons.2 ⟨?_, ih h.2⟩
        intro x hx
        rcases Memory.mem_write hx with rfl | hx
        · simp only; omega
        · exact h.1 x hx

/-- A word write keeps the canonical form. -/
theorem Memory.wf_writeWord {m : Memory} (a v : Word) (h : m.wf = true) : (m.writeWord a v).wf = true := by
  simp only [Memory.wf, Bool.and_eq_true, List.all_eq_true, decide_eq_true_eq] at h ⊢
  refine ⟨Memory.sorted_write _ _ (Memory.sorted_write _ _ h.1), ?_⟩
  intro c hc
  simp only [Memory.read_writeWord]
  rcases Memory.mem_write hc with rfl | hc
  · exact ⟨highCell_lt a, by simp [lowCell_ne_highCell]⟩
  · rcases Memory.mem_write hc with rfl | hc
    · exact ⟨lowCell_lt a, by simp⟩
    · refine ⟨(h.2 c hc).1, ?_⟩
      split
      · rfl
      · split
        · rfl
        · exact (h.2 c hc).2

@[simp] theorem Memory.wf_nil : Memory.wf [] = true := rfl

end Sys2Proof.Machine
end

