-- ==== Sys2Proof/Laws/State.lean ====
section
/-! SUPPORT. The small lemmas of `State`: what each update leaves in each field, and what each register access reads
after each update. -/

namespace Sys2Proof.Machine

/-! ## One lemma per field per update -/

@[simp] theorem State.setHi_ac (s : State) (v : Word) : (s.setHi v).ac = s.ac := rfl
@[simp] theorem State.setHi_rf (s : State) (v : Word) : (s.setHi v).rf = s.rf := rfl
@[simp] theorem State.setHi_hi (s : State) (v : Word) : (s.setHi v).hi = v := rfl
@[simp] theorem State.setHi_lo (s : State) (v : Word) : (s.setHi v).lo = s.lo := rfl
@[simp] theorem State.setHi_sp (s : State) (v : Word) : (s.setHi v).sp = s.sp := rfl
@[simp] theorem State.setHi_lk (s : State) (v : Word) : (s.setHi v).lk = s.lk := rfl
@[simp] theorem State.setHi_pc (s : State) (v : Word) : (s.setHi v).pc = s.pc := rfl
@[simp] theorem State.setHi_mem (s : State) (v : Word) : (s.setHi v).mem = s.mem := rfl
@[simp] theorem State.setHi_imem (s : State) (v : Word) : (s.setHi v).imem = s.imem := rfl
@[simp] theorem State.setHi_params (s : State) (v : Word) : (s.setHi v).params = s.params := rfl

@[simp] theorem State.setLo_ac (s : State) (v : Word) : (s.setLo v).ac = s.ac := rfl
@[simp] theorem State.setLo_rf (s : State) (v : Word) : (s.setLo v).rf = s.rf := rfl
@[simp] theorem State.setLo_hi (s : State) (v : Word) : (s.setLo v).hi = s.hi := rfl
@[simp] theorem State.setLo_lo (s : State) (v : Word) : (s.setLo v).lo = v := rfl
@[simp] theorem State.setLo_sp (s : State) (v : Word) : (s.setLo v).sp = s.sp := rfl
@[simp] theorem State.setLo_lk (s : State) (v : Word) : (s.setLo v).lk = s.lk := rfl
@[simp] theorem State.setLo_pc (s : State) (v : Word) : (s.setLo v).pc = s.pc := rfl
@[simp] theorem State.setLo_mem (s : State) (v : Word) : (s.setLo v).mem = s.mem := rfl
@[simp] theorem State.setLo_imem (s : State) (v : Word) : (s.setLo v).imem = s.imem := rfl
@[simp] theorem State.setLo_params (s : State) (v : Word) : (s.setLo v).params = s.params := rfl

@[simp] theorem State.setSpReg_ac (s : State) (v : Word) : (s.setSpReg v).ac = s.ac := rfl
@[simp] theorem State.setSpReg_rf (s : State) (v : Word) : (s.setSpReg v).rf = s.rf := rfl
@[simp] theorem State.setSpReg_hi (s : State) (v : Word) : (s.setSpReg v).hi = s.hi := rfl
@[simp] theorem State.setSpReg_lo (s : State) (v : Word) : (s.setSpReg v).lo = s.lo := rfl
@[simp] theorem State.setSpReg_sp (s : State) (v : Word) : (s.setSpReg v).sp = v := rfl
@[simp] theorem State.setSpReg_lk (s : State) (v : Word) : (s.setSpReg v).lk = s.lk := rfl
@[simp] theorem State.setSpReg_pc (s : State) (v : Word) : (s.setSpReg v).pc = s.pc := rfl
@[simp] theorem State.setSpReg_mem (s : State) (v : Word) : (s.setSpReg v).mem = s.mem := rfl
@[simp] theorem State.setSpReg_imem (s : State) (v : Word) : (s.setSpReg v).imem = s.imem := rfl
@[simp] theorem State.setSpReg_params (s : State) (v : Word) : (s.setSpReg v).params = s.params := rfl

@[simp] theorem State.setLkReg_ac (s : State) (v : Word) : (s.setLkReg v).ac = s.ac := rfl
@[simp] theorem State.setLkReg_rf (s : State) (v : Word) : (s.setLkReg v).rf = s.rf := rfl
@[simp] theorem State.setLkReg_hi (s : State) (v : Word) : (s.setLkReg v).hi = s.hi := rfl
@[simp] theorem State.setLkReg_lo (s : State) (v : Word) : (s.setLkReg v).lo = s.lo := rfl
@[simp] theorem State.setLkReg_sp (s : State) (v : Word) : (s.setLkReg v).sp = s.sp := rfl
@[simp] theorem State.setLkReg_lk (s : State) (v : Word) : (s.setLkReg v).lk = v := rfl
@[simp] theorem State.setLkReg_pc (s : State) (v : Word) : (s.setLkReg v).pc = s.pc := rfl
@[simp] theorem State.setLkReg_mem (s : State) (v : Word) : (s.setLkReg v).mem = s.mem := rfl
@[simp] theorem State.setLkReg_imem (s : State) (v : Word) : (s.setLkReg v).imem = s.imem := rfl
@[simp] theorem State.setLkReg_params (s : State) (v : Word) : (s.setLkReg v).params = s.params := rfl

@[simp] theorem State.setPc_ac (s : State) (v : Word) : (s.setPc v).ac = s.ac := rfl
@[simp] theorem State.setPc_rf (s : State) (v : Word) : (s.setPc v).rf = s.rf := rfl
@[simp] theorem State.setPc_hi (s : State) (v : Word) : (s.setPc v).hi = s.hi := rfl
@[simp] theorem State.setPc_lo (s : State) (v : Word) : (s.setPc v).lo = s.lo := rfl
@[simp] theorem State.setPc_sp (s : State) (v : Word) : (s.setPc v).sp = s.sp := rfl
@[simp] theorem State.setPc_lk (s : State) (v : Word) : (s.setPc v).lk = s.lk := rfl
@[simp] theorem State.setPc_pc (s : State) (v : Word) : (s.setPc v).pc = v := rfl
@[simp] theorem State.setPc_mem (s : State) (v : Word) : (s.setPc v).mem = s.mem := rfl
@[simp] theorem State.setPc_imem (s : State) (v : Word) : (s.setPc v).imem = s.imem := rfl
@[simp] theorem State.setPc_params (s : State) (v : Word) : (s.setPc v).params = s.params := rfl

@[simp] theorem State.setMem_ac (s : State) (m : Memory) : (s.setMem m).ac = s.ac := rfl
@[simp] theorem State.setMem_rf (s : State) (m : Memory) : (s.setMem m).rf = s.rf := rfl
@[simp] theorem State.setMem_hi (s : State) (m : Memory) : (s.setMem m).hi = s.hi := rfl
@[simp] theorem State.setMem_lo (s : State) (m : Memory) : (s.setMem m).lo = s.lo := rfl
@[simp] theorem State.setMem_sp (s : State) (m : Memory) : (s.setMem m).sp = s.sp := rfl
@[simp] theorem State.setMem_lk (s : State) (m : Memory) : (s.setMem m).lk = s.lk := rfl
@[simp] theorem State.setMem_pc (s : State) (m : Memory) : (s.setMem m).pc = s.pc := rfl
@[simp] theorem State.setMem_mem (s : State) (m : Memory) : (s.setMem m).mem = m := rfl
@[simp] theorem State.setMem_imem (s : State) (m : Memory) : (s.setMem m).imem = s.imem := rfl
@[simp] theorem State.setMem_params (s : State) (m : Memory) : (s.setMem m).params = s.params := rfl

@[simp] theorem State.setImem_ac (s : State) (m : Memory) : (s.setImem m).ac = s.ac := rfl
@[simp] theorem State.setImem_rf (s : State) (m : Memory) : (s.setImem m).rf = s.rf := rfl
@[simp] theorem State.setImem_hi (s : State) (m : Memory) : (s.setImem m).hi = s.hi := rfl
@[simp] theorem State.setImem_lo (s : State) (m : Memory) : (s.setImem m).lo = s.lo := rfl
@[simp] theorem State.setImem_sp (s : State) (m : Memory) : (s.setImem m).sp = s.sp := rfl
@[simp] theorem State.setImem_lk (s : State) (m : Memory) : (s.setImem m).lk = s.lk := rfl
@[simp] theorem State.setImem_pc (s : State) (m : Memory) : (s.setImem m).pc = s.pc := rfl
@[simp] theorem State.setImem_mem (s : State) (m : Memory) : (s.setImem m).mem = s.mem := rfl
@[simp] theorem State.setImem_imem (s : State) (m : Memory) : (s.setImem m).imem = m := rfl
@[simp] theorem State.setImem_params (s : State) (m : Memory) : (s.setImem m).params = s.params := rfl

@[simp] theorem State.writeAc_rf (s : State) (a : AcReg) (v : Word) : (s.writeAc a v).rf = s.rf := rfl
@[simp] theorem State.writeAc_hi (s : State) (a : AcReg) (v : Word) : (s.writeAc a v).hi = s.hi := rfl
@[simp] theorem State.writeAc_lo (s : State) (a : AcReg) (v : Word) : (s.writeAc a v).lo = s.lo := rfl
@[simp] theorem State.writeAc_sp (s : State) (a : AcReg) (v : Word) : (s.writeAc a v).sp = s.sp := rfl
@[simp] theorem State.writeAc_lk (s : State) (a : AcReg) (v : Word) : (s.writeAc a v).lk = s.lk := rfl
@[simp] theorem State.writeAc_pc (s : State) (a : AcReg) (v : Word) : (s.writeAc a v).pc = s.pc := rfl
@[simp] theorem State.writeAc_mem (s : State) (a : AcReg) (v : Word) : (s.writeAc a v).mem = s.mem := rfl
@[simp] theorem State.writeAc_imem (s : State) (a : AcReg) (v : Word) : (s.writeAc a v).imem = s.imem := rfl
@[simp] theorem State.writeAc_params (s : State) (a : AcReg) (v : Word) : (s.writeAc a v).params = s.params := rfl

@[simp] theorem State.writeRf_ac (s : State) (r : RfReg) (v : Word) : (s.writeRf r v).ac = s.ac := rfl
@[simp] theorem State.writeRf_hi (s : State) (r : RfReg) (v : Word) : (s.writeRf r v).hi = s.hi := rfl
@[simp] theorem State.writeRf_lo (s : State) (r : RfReg) (v : Word) : (s.writeRf r v).lo = s.lo := rfl
@[simp] theorem State.writeRf_sp (s : State) (r : RfReg) (v : Word) : (s.writeRf r v).sp = s.sp := rfl
@[simp] theorem State.writeRf_lk (s : State) (r : RfReg) (v : Word) : (s.writeRf r v).lk = s.lk := rfl
@[simp] theorem State.writeRf_pc (s : State) (r : RfReg) (v : Word) : (s.writeRf r v).pc = s.pc := rfl
@[simp] theorem State.writeRf_mem (s : State) (r : RfReg) (v : Word) : (s.writeRf r v).mem = s.mem := rfl
@[simp] theorem State.writeRf_imem (s : State) (r : RfReg) (v : Word) : (s.writeRf r v).imem = s.imem := rfl
@[simp] theorem State.writeRf_params (s : State) (r : RfReg) (v : Word) : (s.writeRf r v).params = s.params := rfl

@[simp] theorem State.advance_ac (s : State) : s.advance.ac = s.ac := rfl
@[simp] theorem State.advance_rf (s : State) : s.advance.rf = s.rf := rfl
@[simp] theorem State.advance_hi (s : State) : s.advance.hi = s.hi := rfl
@[simp] theorem State.advance_lo (s : State) : s.advance.lo = s.lo := rfl
@[simp] theorem State.advance_sp (s : State) : s.advance.sp = s.sp := rfl
@[simp] theorem State.advance_lk (s : State) : s.advance.lk = s.lk := rfl
@[simp] theorem State.advance_pc (s : State) : s.advance.pc = s.pc + 1 := rfl
@[simp] theorem State.advance_mem (s : State) : s.advance.mem = s.mem := rfl
@[simp] theorem State.advance_imem (s : State) : s.advance.imem = s.imem := rfl
@[simp] theorem State.advance_params (s : State) : s.advance.params = s.params := rfl

/-! ## Register reads after an update -/

@[simp] theorem State.readAc_setHi (s : State) (v : Word) (a : AcReg) : (s.setHi v).readAc a = s.readAc a := rfl
@[simp] theorem State.readRf_setHi (s : State) (v : Word) (r : RfReg) : (s.setHi v).readRf r = s.readRf r := rfl
@[simp] theorem State.readAc_setLo (s : State) (v : Word) (a : AcReg) : (s.setLo v).readAc a = s.readAc a := rfl
@[simp] theorem State.readRf_setLo (s : State) (v : Word) (r : RfReg) : (s.setLo v).readRf r = s.readRf r := rfl
@[simp] theorem State.readAc_setSpReg (s : State) (v : Word) (a : AcReg) : (s.setSpReg v).readAc a = s.readAc a := rfl
@[simp] theorem State.readRf_setSpReg (s : State) (v : Word) (r : RfReg) : (s.setSpReg v).readRf r = s.readRf r := rfl
@[simp] theorem State.readAc_setLkReg (s : State) (v : Word) (a : AcReg) : (s.setLkReg v).readAc a = s.readAc a := rfl
@[simp] theorem State.readRf_setLkReg (s : State) (v : Word) (r : RfReg) : (s.setLkReg v).readRf r = s.readRf r := rfl
@[simp] theorem State.readAc_setPc (s : State) (v : Word) (a : AcReg) : (s.setPc v).readAc a = s.readAc a := rfl
@[simp] theorem State.readRf_setPc (s : State) (v : Word) (r : RfReg) : (s.setPc v).readRf r = s.readRf r := rfl
@[simp] theorem State.readAc_setMem (s : State) (m : Memory) (a : AcReg) : (s.setMem m).readAc a = s.readAc a := rfl
@[simp] theorem State.readRf_setMem (s : State) (m : Memory) (r : RfReg) : (s.setMem m).readRf r = s.readRf r := rfl
@[simp] theorem State.readAc_setImem (s : State) (m : Memory) (a : AcReg) : (s.setImem m).readAc a = s.readAc a := rfl
@[simp] theorem State.readRf_setImem (s : State) (m : Memory) (r : RfReg) : (s.setImem m).readRf r = s.readRf r := rfl
@[simp] theorem State.readAc_advance (s : State) (a : AcReg) : s.advance.readAc a = s.readAc a := rfl
@[simp] theorem State.readRf_advance (s : State) (r : RfReg) : s.advance.readRf r = s.readRf r := rfl
@[simp] theorem State.readRf_writeAc (s : State) (a : AcReg) (v : Word) (r : RfReg) :
    (s.writeAc a v).readRf r = s.readRf r := rfl
@[simp] theorem State.readAc_writeRf (s : State) (r : RfReg) (v : Word) (a : AcReg) :
    (s.writeRf r v).readAc a = s.readAc a := rfl

/-- Reading the ac bank after a write of it (R20). -/
theorem State.readAc_writeAc (s : State) (a b : AcReg) (v : Word) :
    (s.writeAc a v).readAc b = if b = a then v else s.readAc b := by
  simp only [State.readAc, State.writeAc, Vector.getElem_set, BitVec.toNat_inj, eq_comm (a := a)]

@[simp] theorem State.readAc_writeAc_same (s : State) (a : AcReg) (v : Word) : (s.writeAc a v).readAc a = v := by
  simp [State.readAc_writeAc]

/-- Reading the rf bank after a write of it (R22). -/
theorem State.readRf_writeRf (s : State) (r q : RfReg) (v : Word) :
    (s.writeRf r v).readRf q = if q = r then v else s.readRf q := by
  simp only [State.readRf, State.writeRf, Vector.getElem_set, BitVec.toNat_inj, eq_comm (a := r)]

@[simp] theorem State.readRf_writeRf_same (s : State) (r : RfReg) (v : Word) : (s.writeRf r v).readRf r = v := by
  simp [State.readRf_writeRf]

/-! ## `sp` and `lk` wherever they live (R27, R28) -/

/-- Writing `sp` changes one register: the dedicated one or a member of the rf bank. -/
theorem State.writeSp_eq (s : State) (v : Word) :
    s.writeSp v = s.setSpReg v ∧ s.params.spLoc = .dedicated
      ∨ ∃ i, s.writeSp v = s.writeRf i v ∧ s.params.spLoc = .rf i := by
  unfold State.writeSp
  cases s.params.spLoc <;> simp

/-- Writing `lk` changes one register: the dedicated one or a member of the rf bank. -/
theorem State.writeLk_eq (s : State) (v : Word) :
    s.writeLk v = s.setLkReg v ∧ s.params.lkLoc = .dedicated
      ∨ ∃ i, s.writeLk v = s.writeRf i v ∧ s.params.lkLoc = .rf i := by
  unfold State.writeLk
  cases s.params.lkLoc <;> simp

@[simp] theorem State.writeSp_ac (s : State) (v : Word) : (s.writeSp v).ac = s.ac := by
  unfold State.writeSp; split <;> rfl
@[simp] theorem State.writeSp_hi (s : State) (v : Word) : (s.writeSp v).hi = s.hi := by
  unfold State.writeSp; split <;> rfl
@[simp] theorem State.writeSp_lo (s : State) (v : Word) : (s.writeSp v).lo = s.lo := by
  unfold State.writeSp; split <;> rfl
@[simp] theorem State.writeSp_pc (s : State) (v : Word) : (s.writeSp v).pc = s.pc := by
  unfold State.writeSp; split <;> rfl
@[simp] theorem State.writeSp_mem (s : State) (v : Word) : (s.writeSp v).mem = s.mem := by
  unfold State.writeSp; split <;> rfl
@[simp] theorem State.writeSp_imem (s : State) (v : Word) : (s.writeSp v).imem = s.imem := by
  unfold State.writeSp; split <;> rfl
@[simp] theorem State.writeSp_params (s : State) (v : Word) : (s.writeSp v).params = s.params := by
  unfold State.writeSp; split <;> rfl
@[simp] theorem State.writeSp_lk (s : State) (v : Word) : (s.writeSp v).lk = s.lk := by
  unfold State.writeSp; split <;> rfl
@[simp] theorem State.readAc_writeSp (s : State) (v : Word) (a : AcReg) : (s.writeSp v).readAc a = s.readAc a := by
  unfold State.writeSp; split <;> rfl
@[simp] theorem State.readSp_writeSp (s : State) (v : Word) : (s.writeSp v).readSp = v := by
  unfold State.readSp; rw [State.writeSp_params]; unfold State.writeSp
  cases s.params.spLoc <;> simp

@[simp] theorem State.writeLk_ac (s : State) (v : Word) : (s.writeLk v).ac = s.ac := by
  unfold State.writeLk; split <;> rfl
@[simp] theorem State.writeLk_hi (s : State) (v : Word) : (s.writeLk v).hi = s.hi := by
  unfold State.writeLk; split <;> rfl
@[simp] theorem State.writeLk_lo (s : State) (v : Word) : (s.writeLk v).lo = s.lo := by
  unfold State.writeLk; split <;> rfl
@[simp] theorem State.writeLk_pc (s : State) (v : Word) : (s.writeLk v).pc = s.pc := by
  unfold State.writeLk; split <;> rfl
@[simp] theorem State.writeLk_mem (s : State) (v : Word) : (s.writeLk v).mem = s.mem := by
  unfold State.writeLk; split <;> rfl
@[simp] theorem State.writeLk_imem (s : State) (v : Word) : (s.writeLk v).imem = s.imem := by
  unfold State.writeLk; split <;> rfl
@[simp] theorem State.writeLk_params (s : State) (v : Word) : (s.writeLk v).params = s.params := by
  unfold State.writeLk; split <;> rfl
@[simp] theorem State.writeLk_sp (s : State) (v : Word) : (s.writeLk v).sp = s.sp := by
  unfold State.writeLk; split <;> rfl
@[simp] theorem State.readAc_writeLk (s : State) (v : Word) (a : AcReg) : (s.writeLk v).readAc a = s.readAc a := by
  unfold State.writeLk; split <;> rfl
@[simp] theorem State.readLk_writeLk (s : State) (v : Word) : (s.writeLk v).readLk = v := by
  unfold State.readLk; rw [State.writeLk_params]; unfold State.writeLk
  cases s.params.lkLoc <;> simp

@[simp] theorem State.readSp_advance (s : State) : s.advance.readSp = s.readSp := rfl
@[simp] theorem State.readSp_setPc (s : State) (v : Word) : (s.setPc v).readSp = s.readSp := rfl
@[simp] theorem State.readSp_setHi (s : State) (v : Word) : (s.setHi v).readSp = s.readSp := rfl
@[simp] theorem State.readSp_setLo (s : State) (v : Word) : (s.setLo v).readSp = s.readSp := rfl
@[simp] theorem State.readSp_setMem (s : State) (v : Memory) : (s.setMem v).readSp = s.readSp := rfl
@[simp] theorem State.readSp_writeAc (s : State) (a : AcReg) (v : Word) : (s.writeAc a v).readSp = s.readSp := rfl
@[simp] theorem State.readLk_advance (s : State) : s.advance.readLk = s.readLk := rfl
@[simp] theorem State.readLk_setPc (s : State) (v : Word) : (s.setPc v).readLk = s.readLk := rfl
@[simp] theorem State.readLk_setHi (s : State) (v : Word) : (s.setHi v).readLk = s.readLk := rfl
@[simp] theorem State.readLk_setLo (s : State) (v : Word) : (s.setLo v).readLk = s.readLk := rfl
@[simp] theorem State.readLk_setMem (s : State) (v : Memory) : (s.setMem v).readLk = s.readLk := rfl
@[simp] theorem State.readLk_writeAc (s : State) (a : AcReg) (v : Word) : (s.writeAc a v).readLk = s.readLk := rfl

end Sys2Proof.Machine
end

