-- ==== Sys2Proof/Laws/Image.lean ====
section
/-! SUPPORT. The laws of the host's load: the byte order of an image file is undone by reading it, and loading keeps
the canonical form of memory. -/

namespace Sys2Proof.Machine

/-- Writing a word to an image file and reading it gives the word back, in either order. -/
theorem wordsOfImage_bytesOfWord_append (order : ByteOrder) (w : Word) (bs : List Byte) :
    wordsOfImage order (bytesOfWord order w ++ bs) = (wordsOfImage order bs).map (w :: ·) := by
  cases order <;> simp [bytesOfWord, wordsOfImage, wordOfImage]

/-- The decoder reads the same instruction from a word's bytes in either order. -/
theorem decodeBytes_bytesOfWord (order : ByteOrder) (w : Word) :
    decodeBytes order (bytesOfWord order w) = (decode w).map (·, []) := by
  cases order <;> simp [bytesOfWord, decodeBytes, wordOfImage]

@[simp] theorem Memory.writeWords_nil (m : Memory) (a : Word) : m.writeWords a [] = m := rfl

@[simp] theorem Memory.writeWords_cons (m : Memory) (a w : Word) (ws : List Word) :
    m.writeWords a (w :: ws) = (m.writeWord a w).writeWords (a + 1) ws := rfl

/-- Writing words keeps the canonical form. -/
theorem Memory.wf_writeWords {m : Memory} (a : Word) (ws : List Word) (h : m.wf = true) :
    (m.writeWords a ws).wf = true := by
  induction ws generalizing m a with
  | nil => exact h
  | cons w ws ih => exact ih (a + 1) (Memory.wf_writeWord a w h)

/-- The host's load writes words of the instruction memory and nothing else of what a fetch reads. -/
theorem State.loadProgram_instrMem (s : State) (a : Word) (ws : List Word) :
    (s.loadProgram a ws).instrMem = s.instrMem.writeWords a ws := by
  unfold State.loadProgram State.instrMem
  cases h : s.params.memUnified <;> simp [h]

@[simp] theorem State.loadProgram_pc (s : State) (a : Word) (ws : List Word) : (s.loadProgram a ws).pc = s.pc := by
  unfold State.loadProgram; split <;> rfl

@[simp] theorem State.loadProgram_params (s : State) (a : Word) (ws : List Word) :
    (s.loadProgram a ws).params = s.params := by
  unfold State.loadProgram; split <;> rfl

/-- Loading one word is the load `State.withFetchWord` stands for. -/
theorem State.loadProgram_singleton (s : State) (a w : Word) : s.loadProgram a [w] = s.loadInstr a w := rfl

end Sys2Proof.Machine
end

