-- ==== Sys2Proof/Laws/Ops.lean ====
section
/-! SUPPORT. One lemma per shared operation that says once everything it can do. -/

namespace Sys2Proof.Machine

/-! ## Data accesses (R42, R43, R53, R201, R204) -/

/-- Which fault an address gives, in the order of R204. -/
theorem State.accessFault_eq (s : State) (a : Word) :
    s.accessFault a = none ∧ s.accessible a
      ∨ s.accessFault a = some (.dataRange s.pc a) ∧ inRanges s.params.dataMap a = false
      ∨ s.accessFault a = some (.codeAccess s.pc a) ∧ inRanges s.params.dataMap a = true
          ∧ inRanges s.params.codeText a = true := by
  unfold State.accessFault State.accessible
  cases inRanges s.params.dataMap a <;> cases inRanges s.params.codeText a <;> simp

theorem State.accessFault_eq_none {s : State} {a : Word} : s.accessFault a = none ↔ s.accessible a := by
  unfold State.accessFault State.accessible
  cases inRanges s.params.dataMap a <;> cases inRanges s.params.codeText a <;> simp

/-- `MemRead` answers the word when the address is accessible and its word holds a value. -/
theorem State.memRead_eq_ok {s : State} {a w : Word} :
    s.memRead a = .ok w ↔ s.accessible a ∧ s.mem.readWord a = some w := by
  unfold State.memRead
  rcases s.accessFault_eq a with h | h | h
  · rw [h.1]; cases s.mem.readWord a <;> simp [h.2]
  · simp [h.1, State.accessible, h.2]
  · simp [h.1, State.accessible, h.2.1, h.2.2]

/-- The faults of `MemRead`. -/
theorem State.memRead_eq_error {s : State} {a : Word} {f : Fault} :
    s.memRead a = .error f ↔
      s.accessFault a = some f ∨ s.accessible a ∧ s.mem.readWord a = none ∧ f = .uninitRead s.pc a := by
  unfold State.memRead
  rcases s.accessFault_eq a with h | h | h
  · rw [h.1]; cases s.mem.readWord a <;> simp [h.2, eq_comm]
  · simp [h.1, State.accessible, h.2]
  · simp [h.1, State.accessible, h.2.1, h.2.2]

/-- `MemWrite` changes the one word at an accessible address and nothing else. -/
theorem State.memWrite_eq_ok {s t : State} {a v : Word} :
    s.memWrite a v = .ok t ↔ s.accessible a ∧ t = s.setMem (s.mem.writeWord a v) := by
  unfold State.memWrite
  rcases s.accessFault_eq a with h | h | h
  · simp [h.1, h.2, eq_comm]
  · simp [h.1, State.accessible, h.2]
  · simp [h.1, State.accessible, h.2.1, h.2.2]

/-- The faults of `MemWrite`. -/
theorem State.memWrite_eq_error {s : State} {a v : Word} {f : Fault} :
    s.memWrite a v = .error f ↔ s.accessFault a = some f := by
  unfold State.memWrite
  split <;> simp_all

/-- An instruction goes on after an access exactly when the access answers a value. -/
theorem afterAccess_eq_next {α : Type} {x : Except Fault α} {k : α → State} {t : State} :
    afterAccess x k = .next t ↔ ∃ v, x = .ok v ∧ t = k v := by
  cases x <;> simp [afterAccess, eq_comm]

/-- An instruction faults after an access exactly when the access does, with the same fault. -/
theorem afterAccess_eq_fault {α : Type} {x : Except Fault α} {k : α → State} {f : Fault} :
    afterAccess x k = .fault f ↔ x = .error f := by
  cases x <;> simp [afterAccess]

theorem afterAccess_ne_refused {α : Type} {x : Except Fault α} {k : α → State} {r : Refusal} :
    afterAccess x k ≠ .refused r := by
  cases x <;> simp [afterAccess]

/-! ## Fetch and load (R41, R44, R233) -/

/-- `Fetch` answers a word when `pc` is implemented and the word there holds a value. -/
theorem State.fetch_eq_ok {s : State} {w : Word} :
    s.fetch = .ok w ↔ inRanges s.params.instrMap s.pc = true ∧ s.instrMem.readWord s.pc = some w := by
  unfold State.fetch
  cases inRanges s.params.instrMap s.pc
  · simp
  · cases s.instrMem.readWord s.pc <;> simp

@[simp] theorem State.loadInstr_pc (s : State) (a w : Word) : (s.loadInstr a w).pc = s.pc := by
  unfold State.loadInstr; split <;> rfl

@[simp] theorem State.loadInstr_params (s : State) (a w : Word) : (s.loadInstr a w).params = s.params := by
  unfold State.loadInstr; split <;> rfl

/-- The host's load writes one word of the instruction memory (R233). -/
theorem State.loadInstr_instrMem (s : State) (a w : Word) :
    (s.loadInstr a w).instrMem = s.instrMem.writeWord a w := by
  unfold State.instrMem
  rw [State.loadInstr_params]
  unfold State.loadInstr
  split <;> simp_all

/-! ## The shared forms of the meanings -/

theorem aluReg_eq (f : Word → Word → Word) (a : AcReg) (r1 r2 : RfReg) (s : State) :
    aluReg f a r1 r2 s = .next (s.writeAc a (f (s.readRf r1) (s.readRf r2))).advance := rfl

theorem shiftReg_eq (f : Word → Nat → Word) (a : AcReg) (r1 : RfReg) (shamt : Shamt) (s : State) :
    shiftReg f a r1 shamt s = .next (s.writeAc a (f (s.readRf r1) shamt.toNat)).advance := rfl

theorem aluImm_eq (f : Word → Word → Word) (a : AcReg) (imm16 : Word) (s : State) :
    aluImm f a imm16 s = .next (s.writeAc a (f (s.readAc a) imm16)).advance := rfl

theorem loadImm_eq (a : AcReg) (imm16 : Word) (s : State) : loadImm a imm16 s = .next (s.writeAc a imm16).advance := rfl

theorem writePair_eq (p : Word × Word) (s : State) : writePair p s = .next ((s.setHi p.1).setLo p.2).advance := rfl

/-- A branch changes `pc` only. -/
theorem branch_eq (taken : Bool) (target : Word) (s : State) :
    branch taken target s = .next (s.setPc (if taken then target else s.nextPc)) := by
  cases taken <;> rfl

/-! ## Frames of the shared updates -/

/-- Writing one ac register and moving `pc` changes that register and `pc`. -/
theorem unchanged_writeAc (s : State) (a : AcReg) (v pc' : Word) :
    Unchanged { ac := some a } s ((s.writeAc a v).setPc pc') := by
  refine ⟨fun b hb => ?_, fun _ _ => rfl, fun _ => rfl, fun _ => rfl, fun _ => rfl, fun _ => rfl, fun _ _ => rfl,
    fun _ => rfl, rfl⟩
  rw [State.readAc_setPc, State.readAc_writeAc, if_neg]
  rintro rfl; exact hb rfl

/-- Moving `pc` changes `pc` only. -/
theorem unchanged_setPc (s : State) (pc' : Word) : Unchanged {} s (s.setPc pc') :=
  ⟨fun _ _ => rfl, fun _ _ => rfl, fun _ => rfl, fun _ => rfl, fun _ => rfl, fun _ => rfl, fun _ _ => rfl,
    fun _ => rfl, rfl⟩

/-! ## One step (R241) -/

/-- Everything a step that goes on can have done: fetch a word, decode it, execute the instruction. -/
theorem step_eq_next {s t : State} :
    step s = .next t ↔ ∃ w i, s.fetch = .ok w ∧ decode w = .ok i ∧ exec i s = .next t := by
  unfold step
  cases s.fetch with
  | error f => simp
  | ok w => cases h : decode w <;> simp [h]

end Sys2Proof.Machine
end

