-- ==== Sys2Proof/Laws/PerInstr.lean ====
section
/-! SUPPORT. The per-instruction family `EncodesItsOpcode`: the opcode bits of an instruction's canonical word are the
number of its row in R70 (R67), and that number is 0 to 48 (R69). -/

namespace Sys2Proof.Laws.EncodesItsOpcode

/-- The canonical word of `i` carries the opcode of its row, one of the 49. -/
def Statement (i : Instr) : Prop := opcodeField (encode i) = i.opcode ∧ i.opcode.toNat ≤ 48

theorem nope : Statement .nope := ⟨rfl, Nat.le_of_ble_eq_true rfl⟩
theorem add (a : AcReg) (r1 : RfReg) (r2 : RfReg) : Statement (.add a r1 r2) := ⟨opcodeField_encodeR _ _ _ _, Nat.le_of_ble_eq_true rfl⟩
theorem sub (a : AcReg) (r1 : RfReg) (r2 : RfReg) : Statement (.sub a r1 r2) := ⟨opcodeField_encodeR _ _ _ _, Nat.le_of_ble_eq_true rfl⟩
theorem not (a : AcReg) (r1 : RfReg) : Statement (.not a r1) := ⟨opcodeField_encodeR _ _ _ _, Nat.le_of_ble_eq_true rfl⟩
theorem and (a : AcReg) (r1 : RfReg) (r2 : RfReg) : Statement (.and a r1 r2) := ⟨opcodeField_encodeR _ _ _ _, Nat.le_of_ble_eq_true rfl⟩
theorem or (a : AcReg) (r1 : RfReg) (r2 : RfReg) : Statement (.or a r1 r2) := ⟨opcodeField_encodeR _ _ _ _, Nat.le_of_ble_eq_true rfl⟩
theorem xor (a : AcReg) (r1 : RfReg) (r2 : RfReg) : Statement (.xor a r1 r2) := ⟨opcodeField_encodeR _ _ _ _, Nat.le_of_ble_eq_true rfl⟩
theorem nand (a : AcReg) (r1 : RfReg) (r2 : RfReg) : Statement (.nand a r1 r2) := ⟨opcodeField_encodeR _ _ _ _, Nat.le_of_ble_eq_true rfl⟩
theorem nor (a : AcReg) (r1 : RfReg) (r2 : RfReg) : Statement (.nor a r1 r2) := ⟨opcodeField_encodeR _ _ _ _, Nat.le_of_ble_eq_true rfl⟩
theorem xnor (a : AcReg) (r1 : RfReg) (r2 : RfReg) : Statement (.xnor a r1 r2) := ⟨opcodeField_encodeR _ _ _ _, Nat.le_of_ble_eq_true rfl⟩
theorem sll (a : AcReg) (r1 : RfReg) (shamt : Shamt) : Statement (.sll a r1 shamt) := ⟨opcodeField_encodeS _ _ _ _, Nat.le_of_ble_eq_true rfl⟩
theorem srl (a : AcReg) (r1 : RfReg) (shamt : Shamt) : Statement (.srl a r1 shamt) := ⟨opcodeField_encodeS _ _ _ _, Nat.le_of_ble_eq_true rfl⟩
theorem sra (a : AcReg) (r1 : RfReg) (shamt : Shamt) : Statement (.sra a r1 shamt) := ⟨opcodeField_encodeS _ _ _ _, Nat.le_of_ble_eq_true rfl⟩
theorem tmul (r2 : RfReg) : Statement (.tmul r2) := ⟨opcodeField_encodeR _ _ _ _, Nat.le_of_ble_eq_true rfl⟩
theorem tdiv (r2 : RfReg) : Statement (.tdiv r2) := ⟨opcodeField_encodeR _ _ _ _, Nat.le_of_ble_eq_true rfl⟩
theorem mtl (a : AcReg) : Statement (.mtl a) := ⟨opcodeField_encodeR _ _ _ _, Nat.le_of_ble_eq_true rfl⟩
theorem mfl (a : AcReg) : Statement (.mfl a) := ⟨opcodeField_encodeR _ _ _ _, Nat.le_of_ble_eq_true rfl⟩
theorem mth (a : AcReg) : Statement (.mth a) := ⟨opcodeField_encodeR _ _ _ _, Nat.le_of_ble_eq_true rfl⟩
theorem mfh (a : AcReg) : Statement (.mfh a) := ⟨opcodeField_encodeR _ _ _ _, Nat.le_of_ble_eq_true rfl⟩
theorem mtac (a : AcReg) (r1 : RfReg) : Statement (.mtac a r1) := ⟨opcodeField_encodeR _ _ _ _, Nat.le_of_ble_eq_true rfl⟩
theorem mfac (a : AcReg) (r1 : RfReg) : Statement (.mfac a r1) := ⟨opcodeField_encodeR _ _ _ _, Nat.le_of_ble_eq_true rfl⟩
theorem slt (a : AcReg) (r1 : RfReg) (r2 : RfReg) : Statement (.slt a r1 r2) := ⟨opcodeField_encodeR _ _ _ _, Nat.le_of_ble_eq_true rfl⟩
theorem addi (a : AcReg) (imm : Imm8) : Statement (.addi a imm) := ⟨opcodeField_encodeI _ _ _, Nat.le_of_ble_eq_true rfl⟩
theorem subi (a : AcReg) (imm : Imm8) : Statement (.subi a imm) := ⟨opcodeField_encodeI _ _ _, Nat.le_of_ble_eq_true rfl⟩
theorem andi (a : AcReg) (imm : Imm8) : Statement (.andi a imm) := ⟨opcodeField_encodeI _ _ _, Nat.le_of_ble_eq_true rfl⟩
theorem ori (a : AcReg) (imm : Imm8) : Statement (.ori a imm) := ⟨opcodeField_encodeI _ _ _, Nat.le_of_ble_eq_true rfl⟩
theorem xori (a : AcReg) (imm : Imm8) : Statement (.xori a imm) := ⟨opcodeField_encodeI _ _ _, Nat.le_of_ble_eq_true rfl⟩
theorem nandi (a : AcReg) (imm : Imm8) : Statement (.nandi a imm) := ⟨opcodeField_encodeI _ _ _, Nat.le_of_ble_eq_true rfl⟩
theorem nori (a : AcReg) (imm : Imm8) : Statement (.nori a imm) := ⟨opcodeField_encodeI _ _ _, Nat.le_of_ble_eq_true rfl⟩
theorem xnori (a : AcReg) (imm : Imm8) : Statement (.xnori a imm) := ⟨opcodeField_encodeI _ _ _, Nat.le_of_ble_eq_true rfl⟩
theorem lli (a : AcReg) (imm : Imm8) : Statement (.lli a imm) := ⟨opcodeField_encodeI _ _ _, Nat.le_of_ble_eq_true rfl⟩
theorem lui (a : AcReg) (imm : Imm8) : Statement (.lui a imm) := ⟨opcodeField_encodeI _ _ _, Nat.le_of_ble_eq_true rfl⟩
theorem lsi (a : AcReg) (imm : Imm8) : Statement (.lsi a imm) := ⟨opcodeField_encodeI _ _ _, Nat.le_of_ble_eq_true rfl⟩
theorem lwr (a : AcReg) (r1 : RfReg) (r2 : RfReg) : Statement (.lwr a r1 r2) := ⟨opcodeField_encodeR _ _ _ _, Nat.le_of_ble_eq_true rfl⟩
theorem swr (a : AcReg) (r1 : RfReg) (r2 : RfReg) : Statement (.swr a r1 r2) := ⟨opcodeField_encodeR _ _ _ _, Nat.le_of_ble_eq_true rfl⟩
theorem push (a : AcReg) : Statement (.push a) := ⟨opcodeField_encodeR _ _ _ _, Nat.le_of_ble_eq_true rfl⟩
theorem pop (a : AcReg) : Statement (.pop a) := ⟨opcodeField_encodeR _ _ _ _, Nat.le_of_ble_eq_true rfl⟩
theorem jr (imm : Imm10) : Statement (.jr imm) := ⟨opcodeField_encodeJ _ _, Nat.le_of_ble_eq_true rfl⟩
theorem jrl (imm : Imm10) : Statement (.jrl imm) := ⟨opcodeField_encodeJ _ _, Nat.le_of_ble_eq_true rfl⟩
theorem ja (r1 : RfReg) : Statement (.ja r1) := ⟨opcodeField_encodeR _ _ _ _, Nat.le_of_ble_eq_true rfl⟩
theorem jal (r1 : RfReg) : Statement (.jal r1) := ⟨opcodeField_encodeR _ _ _ _, Nat.le_of_ble_eq_true rfl⟩
theorem bgtz (a : AcReg) (imm : Imm8) : Statement (.bgtz a imm) := ⟨opcodeField_encodeI _ _ _, Nat.le_of_ble_eq_true rfl⟩
theorem bltz (a : AcReg) (imm : Imm8) : Statement (.bltz a imm) := ⟨opcodeField_encodeI _ _ _, Nat.le_of_ble_eq_true rfl⟩
theorem beqz (a : AcReg) (imm : Imm8) : Statement (.beqz a imm) := ⟨opcodeField_encodeI _ _ _, Nat.le_of_ble_eq_true rfl⟩
theorem bnez (a : AcReg) (imm : Imm8) : Statement (.bnez a imm) := ⟨opcodeField_encodeI _ _ _, Nat.le_of_ble_eq_true rfl⟩
theorem bgtzr (a : AcReg) (r1 : RfReg) : Statement (.bgtzr a r1) := ⟨opcodeField_encodeR _ _ _ _, Nat.le_of_ble_eq_true rfl⟩
theorem bltzr (a : AcReg) (r1 : RfReg) : Statement (.bltzr a r1) := ⟨opcodeField_encodeR _ _ _ _, Nat.le_of_ble_eq_true rfl⟩
theorem beqzr (a : AcReg) (r1 : RfReg) : Statement (.beqzr a r1) := ⟨opcodeField_encodeR _ _ _ _, Nat.le_of_ble_eq_true rfl⟩
theorem bnezr (a : AcReg) (r1 : RfReg) : Statement (.bnezr a r1) := ⟨opcodeField_encodeR _ _ _ _, Nat.le_of_ble_eq_true rfl⟩

end Sys2Proof.Laws.EncodesItsOpcode
end

