-- ==== Sys2Proof/Tests/Slice0.lean ====
section
/-! SUPPORT. The model's own tests: the checks of WellFormed, one written-out word per row of R70, vectors of
spec/95_test_vectors.md (one step each; the vector is named), and a witness for the hypotheses of each statement. -/

namespace Sys2Proof.Tests

open Sys2Proof.Machine

/-! ## Small states -/

/-- The parameters of the vectors: the defaults of R7, with `TMUL_TOP_BIT = zero` and one memory. -/
def vectorParams : Params := { initialParams with tmulTopBit := .zero }

/-- A state at `pc = 0x0100` whose registers are 0 and whose memory is empty. -/
def start : State := { State.reset with pc := 0x0100, params := vectorParams }

/-- `start` with two rf registers set. -/
def withRf (r : RfReg) (x : Word) (q : RfReg) (y : Word) : State := (start.writeRf r x).writeRf q y

/-- `start` with one ac register set. -/
def withAc (a : AcReg) (x : Word) : State := start.writeAc a x

/-- One step with the word `w` loaded at `pc`. -/
def stepOn (w : Word) (s : State) : Out := step (s.loadInstr s.pc w)

/-- A value read from a next state. -/
def after {α : Type} (o : Out) (f : State → α) : Option α :=
  match o with
  | .next t => some (f t)
  | _ => none

/-- The fault of an outcome. -/
def faultOf (o : Out) : Option Fault :=
  match o with
  | .fault f => some f
  | _ => none

/-! ## WellFormed: each check refuses an ill-formed term -/

theorem test_range_order_refused : AddrRange.wellFormed ⟨0x0002, 0x0001⟩ = false := by decide
theorem test_instr_map_order_refused :
    Params.wellFormed { vectorParams with memUnified := false, instrMap := [⟨2, 1⟩] } = false := by decide
theorem test_data_map_order_refused :
    Params.wellFormed { vectorParams with memUnified := false, dataMap := [⟨2, 1⟩] } = false := by decide
theorem test_code_text_order_refused : Params.wellFormed { vectorParams with codeText := [⟨2, 1⟩] } = false := by decide
theorem test_unequal_unified_maps_refused : Params.wellFormed { vectorParams with dataMap := [] } = false := by decide
theorem test_vector_params_well_formed : vectorParams.wellFormed = true := by decide
theorem test_unsorted_memory_refused : Memory.wf [(2, 0), (3, 0), (0, 0), (1, 0)] = false := by decide
theorem test_repeated_cell_refused : Memory.wf [(0, 0), (0, 0), (1, 0)] = false := by decide
theorem test_half_word_refused : Memory.wf [(2, 0)] = false := by decide
theorem test_cell_outside_memory_refused : Memory.wf [(131072, 0), (131073, 0)] = false := by decide
theorem test_canonical_memory_accepted : Memory.wf [(0, 1), (1, 2), (131070, 3), (131071, 4)] = true := by decide
/-- An instruction needs no check: its types carry it, so there is no ill-formed term to refuse. -/
theorem test_instr_well_formed : (Instr.bnezr 3 15).wellFormed = true := by decide

/-! ## One written-out word per row: opcode bits from R70, fields from R61 to R66 -/

theorem test_decode_no_operation :
    decode 0b0000000000000000#16 = .ok .nope := by decide

theorem test_decode_logical_arithmetic :
    decode 0b0000011010010110#16 = .ok (.add 2 9 6)
    ∧ decode 0b0000101010010110#16 = .ok (.sub 2 9 6)
    ∧ decode 0b0000111010010000#16 = .ok (.not 2 9)
    ∧ decode 0b0001001010010110#16 = .ok (.and 2 9 6)
    ∧ decode 0b0001011010010110#16 = .ok (.or 2 9 6)
    ∧ decode 0b0001101010010110#16 = .ok (.xor 2 9 6)
    ∧ decode 0b0001111010010110#16 = .ok (.nand 2 9 6)
    ∧ decode 0b0010001010010110#16 = .ok (.nor 2 9 6)
    ∧ decode 0b0010011010010110#16 = .ok (.xnor 2 9 6)
    ∧ decode 0b0101011010010110#16 = .ok (.slt 2 9 6)
    ∧ decode 0b0011010000000110#16 = .ok (.tmul 6)
    ∧ decode 0b0011100000000110#16 = .ok (.tdiv 6) := by decide

theorem test_decode_shift :
    decode 0b0010101010011101#16 = .ok (.sll 2 9 13)
    ∧ decode 0b0010111010011101#16 = .ok (.srl 2 9 13)
    ∧ decode 0b0011001010011101#16 = .ok (.sra 2 9 13) := by decide

theorem test_decode_move :
    decode 0b0011111000000000#16 = .ok (.mtl 2)
    ∧ decode 0b0100001000000000#16 = .ok (.mfl 2)
    ∧ decode 0b0100011000000000#16 = .ok (.mth 2)
    ∧ decode 0b0100101000000000#16 = .ok (.mfh 2)
    ∧ decode 0b0100111010010000#16 = .ok (.mtac 2 9)
    ∧ decode 0b0101001010010000#16 = .ok (.mfac 2 9) := by decide

theorem test_decode_immediate :
    decode 0b0101101010100101#16 = .ok (.addi 2 0xa5)
    ∧ decode 0b0101111010100101#16 = .ok (.subi 2 0xa5)
    ∧ decode 0b0110001010100101#16 = .ok (.andi 2 0xa5)
    ∧ decode 0b0110011010100101#16 = .ok (.ori 2 0xa5)
    ∧ decode 0b0110101010100101#16 = .ok (.xori 2 0xa5)
    ∧ decode 0b0110111010100101#16 = .ok (.nandi 2 0xa5)
    ∧ decode 0b0111001010100101#16 = .ok (.nori 2 0xa5)
    ∧ decode 0b0111011010100101#16 = .ok (.xnori 2 0xa5)
    ∧ decode 0b0111101010100101#16 = .ok (.lli 2 0xa5)
    ∧ decode 0b0111111010100101#16 = .ok (.lui 2 0xa5)
    ∧ decode 0b1000001010100101#16 = .ok (.lsi 2 0xa5) := by decide

theorem test_decode_memory_access :
    decode 0b1000011010010110#16 = .ok (.lwr 2 9 6)
    ∧ decode 0b1000101010010110#16 = .ok (.swr 2 9 6)
    ∧ decode 0b1000111000000000#16 = .ok (.push 2)
    ∧ decode 0b1001001000000000#16 = .ok (.pop 2) := by decide

theorem test_decode_control :
    decode 0b1001011010100101#16 = .ok (.jr 0x2a5)
    ∧ decode 0b1001101010100101#16 = .ok (.jrl 0x2a5)
    ∧ decode 0b1001110010010000#16 = .ok (.ja 9)
    ∧ decode 0b1010000010010000#16 = .ok (.jal 9)
    ∧ decode 0b1010011010100101#16 = .ok (.bgtz 2 0xa5)
    ∧ decode 0b1010101010100101#16 = .ok (.bltz 2 0xa5)
    ∧ decode 0b1010111010100101#16 = .ok (.beqz 2 0xa5)
    ∧ decode 0b1011001010100101#16 = .ok (.bnez 2 0xa5)
    ∧ decode 0b1011011010010000#16 = .ok (.bgtzr 2 9)
    ∧ decode 0b1011101010010000#16 = .ok (.bltzr 2 9)
    ∧ decode 0b1011111010010000#16 = .ok (.beqzr 2 9)
    ∧ decode 0b1100001010010000#16 = .ok (.bnezr 2 9) := by decide

theorem test_encode_one_word_per_shape :
    encode .nope = 0b0000000000000000#16
    ∧ encode (.add 2 9 6) = 0b0000011010010110#16
    ∧ encode (.not 2 9) = 0b0000111010010000#16
    ∧ encode (.sll 2 9 13) = 0b0010101010011101#16
    ∧ encode (.tmul 6) = 0b0011010000000110#16
    ∧ encode (.mtl 2) = 0b0011111000000000#16
    ∧ encode (.mfac 2 9) = 0b0101001010010000#16
    ∧ encode (.addi 2 0xa5) = 0b0101101010100101#16
    ∧ encode (.lwr 2 9 6) = 0b1000011010010110#16
    ∧ encode (.push 2) = 0b1000111000000000#16
    ∧ encode (.jr 0x2a5) = 0b1001011010100101#16
    ∧ encode (.ja 9) = 0b1001110010010000#16
    ∧ encode (.bgtz 2 0xa5) = 0b1010011010100101#16
    ∧ encode (.beqzr 2 9) = 0b1011111010010000#16 := by decide

/-- V155, V157, V8, V133: unused bits are ignored; V164, V165: opcodes 49 and 63 are rejected. -/
theorem test_decode_unused_bits :
    decode 0x03FF#16 = .ok .nope ∧ decode 0x37F5#16 = .ok (.tmul 5) ∧ decode 0x0E7F#16 = .ok (.not 2 7)
    ∧ decode 0xC14F#16 = .ok (.bnezr 1 4) := by decide
theorem test_decode_illegal :
    decode 0xC400#16 = .error (.illegalOpcode 0xC400) ∧ decode 0xFFFF#16 = .error (.illegalOpcode 0xFFFF) := by decide
theorem test_decode_table_word : decodeTableWord 16 0x5523 = some (.slt 1 2 3) ∧ decodeTableWord 16 0xC400 = none := by
  decide
theorem test_decode_bytes : decodeBytes .little [0x23, 0x05, 0xFF] = .ok (.add 1 2 3, [0xFF])
    ∧ decodeBytes .big [0x05, 0x23, 0xFF] = .ok (.add 1 2 3, [0xFF]) ∧ decodeBytes .big [0x23] = .error .truncated := by
  decide

/-! ## Vectors, one step each -/

/-- V2 -/
theorem test_add_wraps : after (stepOn 0x0523 (withRf 2 0xFFFF 3 0x0001)) (fun t => (t.readAc 1, t.pc)) = some (0x0000, 0x0101) := by decide
/-- V1 -/
theorem test_add : after (stepOn 0x0523 (withRf 2 0x1234 3 0x0FF0)) (fun t => (t.readAc 1, t.pc)) = some (0x2224, 0x0101) := by decide
/-- V4 -/
theorem test_sub_borrows : after (stepOn 0x0923 (withRf 2 0x0005 3 0x0007)) (fun t => (t.readAc 1, t.pc)) = some (0xFFFE, 0x0101) := by decide
/-- V5 -/
theorem test_sub_signed_overflow : after (stepOn 0x0923 (withRf 2 0x8000 3 0x0001)) (fun t => (t.readAc 1, t.pc)) = some (0x7FFF, 0x0101) := by decide
/-- V9 -/
theorem test_and : after (stepOn 0x1123 (withRf 2 0xF0F0 3 0x3C3C)) (fun t => (t.readAc 1, t.pc)) = some (0x3030, 0x0101) := by decide
/-- V10 -/
theorem test_or : after (stepOn 0x1523 (withRf 2 0xF0F0 3 0x3C3C)) (fun t => (t.readAc 1, t.pc)) = some (0xFCFC, 0x0101) := by decide
/-- V11 -/
theorem test_xor : after (stepOn 0x1923 (withRf 2 0xF0F0 3 0x3C3C)) (fun t => (t.readAc 1, t.pc)) = some (0xCCCC, 0x0101) := by decide
/-- V12 -/
theorem test_nand : after (stepOn 0x1D23 (withRf 2 0xF0F0 3 0x3C3C)) (fun t => (t.readAc 1, t.pc)) = some (0xCFCF, 0x0101) := by decide
/-- V13 -/
theorem test_nor : after (stepOn 0x2123 (withRf 2 0xF0F0 3 0x3C3C)) (fun t => (t.readAc 1, t.pc)) = some (0x0303, 0x0101) := by decide
/-- V14 -/
theorem test_xnor : after (stepOn 0x2523 (withRf 2 0xF0F0 3 0x3C3C)) (fun t => (t.readAc 1, t.pc)) = some (0x3333, 0x0101) := by decide
/-- V18 -/
theorem test_slt_signed : after (stepOn 0x5523 (withRf 2 0x8000 3 0x7FFF)) (fun t => (t.readAc 1, t.pc)) = some (0x0001, 0x0101) := by decide
/-- V16 -/
theorem test_slt_signed_not_less : after (stepOn 0x5523 (withRf 2 0x0001 3 0xFFFF)) (fun t => (t.readAc 1, t.pc)) = some (0x0000, 0x0101) := by decide
/-- V15 with `SLT_SIGNED` false -/
theorem test_slt_unsigned : after (stepOn 0x5523 { withRf 2 0xFFFF 3 0x0001 with params := { vectorParams with sltSigned := false } }) (fun t => t.readAc 1) = some 0x0000 := by decide
/-- V8 -/
theorem test_not_ignores_unused_bits : after (stepOn 0x0E7F (withRf 7 0x00FF 15 0x1234)) (fun t => (t.readAc 2, t.pc)) = some (0xFF00, 0x0101) := by decide
/-- V20 -/
theorem test_tmul_adds : after (stepOn 0x3405 { withRf 5 0x0005 0 0 with hi := 0x0000, lo := 0x0003, params := vectorParams }) (fun t => (t.hi, t.lo, t.pc)) = some (0x0002, 0x8001, 0x0101) := by decide
/-- V24 -/
theorem test_tmul_zero_drops_the_carry : after (stepOn 0x3405 { withRf 5 0xFFFF 0 0 with hi := 0xFFFF, lo := 0xFFFF, params := vectorParams }) (fun t => (t.hi, t.lo, t.pc)) = some (0x7FFF, 0x7FFF, 0x0101) := by decide
/-- V25 -/
theorem test_tmul_carry_keeps_the_carry : after (stepOn 0x3405 { withRf 5 0xFFFF 0 0 with hi := 0xFFFF, lo := 0xFFFF, params := { vectorParams with tmulTopBit := .carry } }) (fun t => (t.hi, t.lo, t.pc)) = some (0xFFFF, 0x7FFF, 0x0101) := by decide
/-- V34 -/
theorem test_tdiv_unsigned_compare : after (stepOn 0x3806 { withRf 6 0x7FFF 0 0 with hi := 0x8000, lo := 0x0000, params := vectorParams }) (fun t => (t.hi, t.lo, t.pc)) = some (0x0002, 0x0000, 0x0101) := by decide
/-- V32 -/
theorem test_tdiv_inserts_one : after (stepOn 0x3806 { withRf 6 0x0005 0 0 with hi := 0x0004, lo := 0x0000, params := vectorParams }) (fun t => (t.hi, t.lo, t.pc)) = some (0x0008, 0x0001, 0x0101) := by decide
/-- V36 -/
theorem test_sll_loses_bit_15 : after (stepOn 0x2811 (withRf 1 0x8001 0 0)) (fun t => (t.readAc 0, t.pc)) = some (0x0002, 0x0101) := by decide
/-- V38 -/
theorem test_sll_15 : after (stepOn 0x281F (withRf 1 0x0001 0 0)) (fun t => (t.readAc 0, t.pc)) = some (0x8000, 0x0101) := by decide
/-- V39 -/
theorem test_srl_15 : after (stepOn 0x2C1F (withRf 1 0x8000 0 0)) (fun t => (t.readAc 0, t.pc)) = some (0x0001, 0x0101) := by decide
/-- V40 -/
theorem test_srl_4 : after (stepOn 0x2C14 (withRf 1 0xF00F 0 0)) (fun t => (t.readAc 0, t.pc)) = some (0x0F00, 0x0101) := by decide
/-- V42 -/
theorem test_sra_15 : after (stepOn 0x301F (withRf 1 0x8000 0 0)) (fun t => (t.readAc 0, t.pc)) = some (0xFFFF, 0x0101) := by decide
/-- V45 -/
theorem test_sra_14 : after (stepOn 0x301E (withRf 1 0x4000 0 0)) (fun t => (t.readAc 0, t.pc)) = some (0x0001, 0x0101) := by decide
/-- V49 -/
theorem test_mtl : after (stepOn 0x3F00 (withAc 3 0xBEEF)) (fun t => (t.lo, t.hi)) = some (0xBEEF, 0) := by decide
/-- V50 -/
theorem test_mfl : after (stepOn 0x4200 { start with lo := 0x1234 }) (fun t => (t.readAc 2, t.pc)) = some (0x1234, 0x0101) := by decide
/-- V51 -/
theorem test_mth : after (stepOn 0x4500 (withAc 1 0xCAFE)) (fun t => (t.hi, t.lo)) = some (0xCAFE, 0) := by decide
/-- V52 -/
theorem test_mfh : after (stepOn 0x4800 { start with hi := 0x00FF }) (fun t => (t.readAc 0, t.pc)) = some (0x00FF, 0x0101) := by decide
/-- V53 -/
theorem test_mtac : after (stepOn 0x4C90 (withRf 9 0x5A5A 0 0)) (fun t => (t.readAc 0, t.pc)) = some (0x5A5A, 0x0101) := by decide
/-- V56 -/
theorem test_mfac_writes_rf0 : after (stepOn 0x5100 (withAc 1 0x7777)) (fun t => (t.readRf 0, t.readAc 1)) = some (0x7777, 0x7777) := by decide
/-- P5, the second instruction, under `SP_LOC = rf(14)` -/
theorem test_mfac_sets_sp : after (stepOn 0x50E0 { withAc 0 0x9000 with params := { vectorParams with spLoc := .rf 14 } }) State.readSp = some 0x9000 := by decide
/-- V58 -/
theorem test_addi_minus_one : after (stepOn 0x59FF (withAc 1 0x0010)) (fun t => (t.readAc 1, t.pc)) = some (0x000F, 0x0101) := by decide
/-- V61 -/
theorem test_addi_minus_128 : after (stepOn 0x5980 (withAc 1 0x0000)) (fun t => (t.readAc 1, t.pc)) = some (0xFF80, 0x0101) := by decide
/-- V65 -/
theorem test_subi_minus_128 : after (stepOn 0x5D80 (withAc 1 0x7FFF)) (fun t => (t.readAc 1, t.pc)) = some (0x807F, 0x0101) := by decide
/-- V63 -/
theorem test_subi_wraps : after (stepOn 0x5D01 (withAc 1 0x0000)) (fun t => (t.readAc 1, t.pc)) = some (0xFFFF, 0x0101) := by decide
/-- V67 -/
theorem test_andi_clears_high : after (stepOn 0x61FF (withAc 1 0xABCD)) (fun t => (t.readAc 1, t.pc)) = some (0x00CD, 0x0101) := by decide
/-- V68 -/
theorem test_ori : after (stepOn 0x65CD (withAc 1 0xAB00)) (fun t => (t.readAc 1, t.pc)) = some (0xABCD, 0x0101) := by decide
/-- V70 -/
theorem test_xori : after (stepOn 0x69FF (withAc 1 0xABCD)) (fun t => (t.readAc 1, t.pc)) = some (0xAB32, 0x0101) := by decide
/-- V71 -/
theorem test_nandi : after (stepOn 0x6D0F (withAc 1 0xABCD)) (fun t => (t.readAc 1, t.pc)) = some (0xFFF2, 0x0101) := by decide
/-- V73 -/
theorem test_nori : after (stepOn 0x710F (withAc 1 0xABC0)) (fun t => (t.readAc 1, t.pc)) = some (0x5430, 0x0101) := by decide
/-- V75 -/
theorem test_xnori : after (stepOn 0x75FF (withAc 1 0xABCD)) (fun t => (t.readAc 1, t.pc)) = some (0x54CD, 0x0101) := by decide
/-- V77 -/
theorem test_lli_zero_extends : after (stepOn 0x7980 (withAc 1 0xABCD)) (fun t => (t.readAc 1, t.pc)) = some (0x0080, 0x0101) := by decide
/-- V78 -/
theorem test_lui : after (stepOn 0x7D80 (withAc 1 0xABCD)) (fun t => (t.readAc 1, t.pc)) = some (0x8000, 0x0101) := by decide
/-- V80 -/
theorem test_lsi_sign_extends : after (stepOn 0x8180 (withAc 1 0xABCD)) (fun t => (t.readAc 1, t.pc)) = some (0xFF80, 0x0101) := by decide
/-- V84 -/
theorem test_lwr_address_wraps : after (stepOn 0x8523 ((withRf 2 0xFFFF 3 0x0002).setMem (Memory.writeWord [] 0x0001 0x1357))) (fun t => (t.readAc 1, t.pc)) = some (0x1357, 0x0101) := by decide
/-- V83 -/
theorem test_lwr : after (stepOn 0x8523 ((withRf 2 0x2000 3 0x0005).setMem (Memory.writeWord [] 0x2005 0xBEEF))) (fun t => (t.readAc 1, t.pc)) = some (0xBEEF, 0x0101) := by decide
/-- V87 -/
theorem test_swr_address_wraps : after (stepOn 0x8923 ((withRf 2 0x8000 3 0x8000).writeAc 1 0x0BAD)) (fun t => t.mem.readWord 0x0000) = some (some 0x0BAD) := by decide
/-- V89 -/
theorem test_push_wraps : after (stepOn 0x8E00 (withAc 2 0x2222)) (fun t => (t.sp, t.mem.readWord 0xFFFF)) = some (0xFFFF, some 0x2222) := by decide
/-- P5, the `push`, under `SP_LOC = rf(14)` -/
theorem test_push_in_rf : after (stepOn 0x8D00 { (withRf 14 0x9000 0 0).writeAc 1 0x0005 with params := { vectorParams with spLoc := .rf 14 } }) (fun t => (t.readRf 14, t.sp, t.mem.readWord 0x8FFF)) = some (0x8FFF, 0, some 0x0005) := by decide
/-- V91 -/
theorem test_pop_wraps : after (stepOn 0x9300 { (start.setMem (Memory.writeWord [] 0xFFFF 0x2222)) with sp := 0xFFFF }) (fun t => (t.readAc 3, t.sp)) = some (0x2222, 0x0000) := by decide
/-- V90 -/
theorem test_pop_keeps_the_word : after (stepOn 0x9300 { (start.setMem (Memory.writeWord [] 0x7FFF 0x1111)) with sp := 0x7FFF }) (fun t => (t.readAc 3, t.sp, t.mem.readWord 0x7FFF)) = some (0x1111, 0x8000, some 0x1111) := by decide
/-- V93 -/
theorem test_jr_last_word_of_page : after (stepOn 0x9400 (start.setPc 0x07FF)) (fun t => t.pc) = some 0x0400 := by decide
/-- V96 -/
theorem test_jr_is_not_relative : after (stepOn 0x97FF (start.setPc 0x0000)) (fun t => t.pc) = some 0x03FF := by decide
/-- V98 -/
theorem test_jrl_link_wraps : after (stepOn 0x9800 (start.setPc 0xFFFF)) (fun t => (t.pc, t.lk)) = some (0xFC00, 0x0000) := by decide
/-- V99 -/
theorem test_ja : after (stepOn 0x9C60 ((withRf 6 0xABCD 0 0).setPc 0x0010)) (fun t => t.pc) = some 0xABCD := by decide
/-- V100 -/
theorem test_jal : after (stepOn 0xA060 ((withRf 6 0x2000 0 0).setPc 0x0010)) (fun t => (t.pc, t.lk)) = some (0x2000, 0x0011) := by decide
/-- R173: `jal rf6` with `LK_LOC = rf(6)` jumps to the old value -/
theorem test_jal_through_lk : after (stepOn 0xA060 { (withRf 6 0x2000 0 0).setPc 0x0010 with params := { vectorParams with lkLoc := .rf 6 } }) (fun t => (t.pc, t.readRf 6, t.lk)) = some (0x2000, 0x0011, 0) := by decide
/-- V105 -/
theorem test_bgtz_taken : after (stepOn 0xA4FD ((withAc 0 0x7FFF).setPc 0x0100)) (fun t => t.pc) = some 0x00FE := by decide
/-- V104 -/
theorem test_bgtz_negative : after (stepOn 0xA4FD ((withAc 0 0x8000).setPc 0x0100)) (fun t => t.pc) = some 0x0101 := by decide
/-- V109 -/
theorem test_bltz_taken : after (stepOn 0xA8FD ((withAc 0 0x8000).setPc 0x0100)) (fun t => t.pc) = some 0x00FE := by decide
/-- V108 -/
theorem test_bltz_positive : after (stepOn 0xA8FD ((withAc 0 0x0001).setPc 0x0100)) (fun t => t.pc) = some 0x0101 := by decide
/-- V110 -/
theorem test_beqz_taken : after (stepOn 0xACFD ((withAc 0 0x0000).setPc 0x0100)) (fun t => t.pc) = some 0x00FE := by decide
/-- V112 -/
theorem test_beqz_negative : after (stepOn 0xACFD ((withAc 0 0x8000).setPc 0x0100)) (fun t => t.pc) = some 0x0101 := by decide
/-- V116 -/
theorem test_bnez_largest_forward : after (stepOn 0xB07F ((withAc 0 0x0001).setPc 0x0100)) (fun t => t.pc) = some 0x0180 := by decide
/-- V120 -/
theorem test_bnez_wraps : after (stepOn 0xB0FE ((withAc 0 0x0001).setPc 0x0000)) (fun t => t.pc) = some 0xFFFF := by decide
/-- V117 with `BRANCH_IMM_SIGNED` false -/
theorem test_bnez_unsigned_displacement : after (stepOn 0xB080 { withAc 0 0x0001 with params := { vectorParams with branchImmSigned := false } }) (fun t => t.pc) = some 0x0181 := by decide
/-- V123 -/
theorem test_bgtzr_taken : after (stepOn 0xB540 (((withRf 4 0x2000 15 0x3000).writeAc 1 0x0001).setPc 0x0100)) (fun t => t.pc) = some 0x2000 := by decide
/-- V125 -/
theorem test_bgtzr_negative : after (stepOn 0xB540 (((withRf 4 0x2000 15 0x3000).writeAc 1 0x8000).setPc 0x0100)) (fun t => t.pc) = some 0x0101 := by decide
/-- V126 -/
theorem test_bltzr_taken : after (stepOn 0xB940 (((withRf 4 0x2000 15 0x3000).writeAc 1 0x8000).setPc 0x0100)) (fun t => t.pc) = some 0x2000 := by decide
/-- V127 -/
theorem test_bltzr_zero : after (stepOn 0xB940 (((withRf 4 0x2000 15 0x3000).writeAc 1 0x0000).setPc 0x0100)) (fun t => t.pc) = some 0x0101 := by decide
/-- V129 -/
theorem test_beqzr_taken : after (stepOn 0xBD40 (((withRf 4 0x2000 15 0x3000).writeAc 1 0x0000).setPc 0x0100)) (fun t => t.pc) = some 0x2000 := by decide
/-- V130 -/
theorem test_beqzr_not_taken : after (stepOn 0xBD40 (((withRf 4 0x2000 15 0x3000).writeAc 1 0xFFFF).setPc 0x0100)) (fun t => t.pc) = some 0x0101 := by decide
/-- V132 -/
theorem test_bnezr_not_taken : after (stepOn 0xC140 (((withRf 4 0x2000 15 0x3000).writeAc 1 0x0000).setPc 0x0100)) (fun t => t.pc) = some 0x0101 := by decide
/-- V133 -/
theorem test_bnezr_ignores_rf2 : after (stepOn 0xC14F (((withRf 4 0x2000 15 0x3000).writeAc 1 0x0001).setPc 0x0100)) (fun t => t.pc) = some 0x2000 := by decide
/-- V134 -/
theorem test_nope_wraps : after (stepOn 0x0000 (start.setPc 0xFFFF)) (fun t => t.pc) = some 0x0000 := by decide
/-- V167 -/
theorem test_illegal_opcode_faults : faultOf (stepOn 0xC400 (start.setPc 0x0005)) = some (.illegalOpcode 0x0005 0xC400) := by decide

/-- `MEM_MAP.data = 0x0000..0x7FFF` and two memories. -/
def halfMap : Params := { vectorParams with memUnified := false, dataMap := [⟨0x0000, 0x7FFF⟩] }

/-- `MEM_MAP.instr = 0x0000..0x03FF` and two memories. -/
def smallCode : Params := { vectorParams with memUnified := false, instrMap := [⟨0x0000, 0x03FF⟩] }

/-- Program text guarded at `0x0000..0x000F` (R53). -/
def guarded : Params := { vectorParams with codeText := [⟨0x0000, 0x000F⟩] }

/-- V168 -/
theorem test_data_range : faultOf (stepOn 0x8523 { withRf 2 0x7FFF 3 0x0001 with params := halfMap }) = some (.dataRange 0x0100 0x8000) := by decide
/-- V169 -/
theorem test_push_data_range : faultOf (stepOn 0x8C00 { start with params := halfMap }) = some (.dataRange 0x0100 0xFFFF) := by decide
/-- V170 -/
theorem test_fetch_range : faultOf (step { start with pc := 0x0400, params := smallCode }) = some (.fetchRange 0x0400) := by decide
/-- V172 -/
theorem test_code_access : faultOf (stepOn 0x8812 { withRf 1 0x0001 2 0x0002 with params := guarded }) = some (.codeAccess 0x0100 0x0003) := by decide
/-- The `UninitRead` option of R36 -/
theorem test_uninit_read : faultOf (stepOn 0x8523 (withRf 2 0x2000 3 0x0005)) = some (.uninitRead 0x0100 0x2005) := by decide
/-- V95 -/
theorem test_halted_at_the_idiom : ((start.setPc 0x0123).loadInstr 0x0123 0x9523).halted = true := by decide
/-- R234 -/
theorem test_not_halted_at_another_jr : ((start.setPc 0x0124).loadInstr 0x0124 0x9523).halted = false := by decide
/-- V79 as the first instruction after reset -/
theorem test_with_fetch_word_runs : after (step (State.reset.withFetchWord 16 0x7D12)) (fun t => (t.readAc 1, t.pc)) = some (0x1200, 0x0001) := by decide
/-- V79 from the separate instruction memory -/
theorem test_separate_memories_fetch : after (stepOn 0x7D12 { start with params := halfMap }) (fun t => (t.readAc 1, t.mem.read 0x200)) = some (0x1200, none) := by decide
/-! ## Witnesses: a state and operands that meet the hypotheses of each statement that has some -/

/-- Two stored words at the ends of the data memory of `halfMap`, and one in the guarded text of `guarded`. -/
def storedWords : Memory :=
  Memory.writeWord (Memory.writeWord (Memory.writeWord [] 0x000F 0x1111) 0x0010 0x2222) 0x7FFF 0x3333

theorem witness_DecodeEncodeRoundTrip :
    (Instr.sra 3 15 15).wellFormed = true ∧ (Instr.jr 0x3FF).wellFormed = true := by decide

theorem witness_DecodedWordsDifferOnlyInUnusedBits :
    decode 0x37F5#16 = .ok (.tmul 5)
    ∧ 0x3405#16 &&& (Instr.tmul 5).usedBits = 0x37F5#16 &&& (Instr.tmul 5).usedBits := by decide

/-- Opcodes 0, 48, 49 and 63. -/
theorem witness_OpcodeFieldSelectsTheInstruction :
    ((0x03FF#16).extractLsb' 10 6).toNat ≤ 48 ∧ ((0xC3FF#16).extractLsb' 10 6).toNat ≤ 48
    ∧ 49 ≤ ((0xC400#16).extractLsb' 10 6).toNat ∧ 49 ≤ ((0xFFFF#16).extractLsb' 10 6).toNat := by decide

theorem witness_StepRunsTheDecodedInstruction :
    let s := start.loadInstr 0x0100 0x0523
    inRanges s.params.instrMap s.pc = true ∧ s.instrMem.read (lowCell s.pc) = some 0x23
    ∧ s.instrMem.read (highCell s.pc) = some 0x05 ∧ decode ((0x05#8 : Byte) ++ (0x23#8 : Byte)) = .ok (.add 1 2 3) := by
  decide

/-- The last implemented word of instruction memory. -/
theorem witness_LoadedWordRunsAsTheNextInstruction :
    let s := { start with pc := 0x03FF, params := smallCode }
    inRanges s.params.instrMap s.pc = true ∧ decode 0xC14F#16 = .ok (.bnezr 1 4) := by decide

/-- The first word outside instruction memory, the last one inside it with nothing written, and opcode 49 there. -/
theorem witness_FetchAndDecodeFaultsStopTheStep :
    inRanges smallCode.instrMap 0x0400 = false
    ∧ (let s := { start with pc := 0x03FF, params := smallCode }
       inRanges s.params.instrMap s.pc = true ∧ s.instrMem.readWord s.pc = none)
    ∧ (let s := ({ start with pc := 0x03FF, params := smallCode }).loadInstr 0x03FF 0xC400
       inRanges s.params.instrMap s.pc = true ∧ s.instrMem.readWord s.pc = some 0xC400
       ∧ 49 ≤ (opcodeField 0xC400).toNat) := by decide

/-- An even `lo` with a sum that carries, and an odd `lo` with the largest sum that does not. -/
theorem witness_TmulReadingsAgreeWithoutACarry :
    (0xFFFE#16).toNat % 2 = 0 ∧ (0xFFFF#16).toNat + (0xFFFF#16).toNat ≥ 65536
    ∧ (0xFFFE#16).toNat + (0x0001#16).toNat < 65536 := by decide

/-- The last implemented word (0x7FFF), the first that is not (0x8000), and the last guarded word (0x000F). -/
theorem witness_LwrLoadsTheIndexedWord :
    (let s := { (withRf 1 0x7FFE 2 0x0001).setMem storedWords with params := halfMap }
     0x7FFF = s.readRf 1 + s.readRf 2 ∧ inRanges s.params.dataMap 0x7FFF = true
     ∧ inRanges s.params.codeText 0x7FFF = false ∧ s.mem.readWord 0x7FFF = some 0x3333)
    ∧ (let s := { withRf 1 0x7FFF 2 0x0001 with params := halfMap }
       0x8000 = s.readRf 1 + s.readRf 2 ∧ inRanges s.params.dataMap 0x8000 = false)
    ∧ (let s := { (withRf 1 0x000E 2 0x0001).setMem storedWords with params := guarded }
       0x000F = s.readRf 1 + s.readRf 2 ∧ inRanges s.params.dataMap 0x000F = true
       ∧ inRanges s.params.codeText 0x000F = true) := by decide

/-- The first word above the guarded text (0x0010), 0x8000 outside the data memory, and 0x000F guarded. -/
theorem witness_SwrStoresTheIndexedWord :
    (let s := { withRf 1 0x000F 2 0x0001 with params := guarded }
     0x0010 = s.indexedAddr 1 2 ∧ inRanges s.params.dataMap 0x0010 = true ∧ inRanges s.params.codeText 0x0010 = false
     ∧ s.params.memUnified = true)
    ∧ (let s := { withRf 1 0x7FFF 2 0x0001 with params := halfMap }
       0x8000 = s.indexedAddr 1 2 ∧ inRanges s.params.dataMap 0x8000 = false)
    ∧ (let s := { withRf 1 0x000E 2 0x0001 with params := guarded }
       0x000F = s.indexedAddr 1 2 ∧ inRanges s.params.dataMap 0x000F = true
       ∧ inRanges s.params.codeText 0x000F = true) := by decide

/-- `sp = 0x8000`, `sp = 0` (which wraps) and `sp = 0x0010`. -/
theorem witness_PushStoresAtTheDecrementedSp :
    (let s := { start with sp := 0x8000, params := halfMap }
     0x7FFF = s.pushAddr ∧ inRanges s.params.dataMap 0x7FFF = true ∧ inRanges s.params.codeText 0x7FFF = false)
    ∧ (let s := { start with sp := 0x0000, params := halfMap }
       0xFFFF = s.pushAddr ∧ inRanges s.params.dataMap 0xFFFF = false)
    ∧ (let s := { start with sp := 0x0010, params := guarded }
       0x000F = s.pushAddr ∧ inRanges s.params.dataMap 0x000F = true ∧ inRanges s.params.codeText 0x000F = true) := by
  decide

/-- `sp` in `rf[14]` at the last implemented word; `sp = 0x8000`; `sp = 0x000F`. -/
theorem witness_PopLoadsAtTheOldSp :
    (let s := { (withRf 14 0x7FFF 0 0).setMem storedWords with params := { halfMap with spLoc := .rf 14 } }
     0x7FFF = s.readSp ∧ inRanges s.params.dataMap 0x7FFF = true ∧ inRanges s.params.codeText 0x7FFF = false
     ∧ s.mem.readWord 0x7FFF = some 0x3333)
    ∧ (let s := { start with sp := 0x8000, params := halfMap }
       0x8000 = s.readSp ∧ inRanges s.params.dataMap 0x8000 = false)
    ∧ (let s := { start with sp := 0x000F, params := guarded }
       0x000F = s.readSp ∧ inRanges s.params.dataMap 0x000F = true ∧ inRanges s.params.codeText 0x000F = true) := by
  decide

theorem witness_UnwrittenWordsFaultOnLoad :
    let s := { withRf 1 0x7FFE 2 0x0001 with sp := 0x7FFF, params := halfMap }
    s.accessible (s.readRf 1 + s.readRf 2) ∧ s.mem.readWord (s.readRf 1 + s.readRf 2) = none
    ∧ s.accessible s.readSp ∧ s.mem.readWord s.readSp = none :=
  ⟨⟨by decide, by decide⟩, by decide, ⟨by decide, by decide⟩, by decide⟩

/-- `sp` wraps from 0 to 0xFFFF. -/
theorem witness_PushThenPopCopiesAndRestoresSp : start.accessible (start.readSp - 1) := ⟨by decide, by decide⟩

theorem witness_MovesBetweenTheBanksCopyARegister :
    let p := { vectorParams with spLoc := .rf 14, lkLoc := .rf 15 }
    p.spLoc = .rf 14 ∧ p.lkLoc = .rf 15 := by decide

/-- The displacement -128 from `pc = 0` wraps; read as unsigned it is 128. -/
theorem witness_ImmediateBranchesAddTheDisplacement :
    (let s := start.setPc 0x0000
     ((0xFF81#16).toNat : ℤ) =
       ((s.pc.toNat : ℤ) + 1 + (if s.params.branchImmSigned then (0x80#8).toInt else ((0x80#8).toNat : ℤ))) % 65536)
    ∧ (let s := { start.setPc 0x0000 with params := { vectorParams with branchImmSigned := false } }
       ((0x0081#16).toNat : ℤ) =
       ((s.pc.toNat : ℤ) + 1 + (if s.params.branchImmSigned then (0x80#8).toInt else ((0x80#8).toNat : ℤ))) % 65536) := by
  decide

/-- One execution that stops in each of the three ways. -/
theorem witness_FaultsNameTheInstructionAndFollowThePriority :
    exec (.lwr 0 1 2) { withRf 1 0x8000 2 0x0000 with params := halfMap } = .fault (.dataRange 0x0100 0x8000)
    ∧ exec (.push 0) { start with sp := 0x0010, params := guarded } = .fault (.codeAccess 0x0100 0x000F)
    ∧ exec (.pop 0) start = .fault (.uninitRead 0x0100 0x0000) := ⟨rfl, rfl, rfl⟩

/-- A step of `swr` from a state of the invariant, which changes memory. -/
theorem witness_StepKeepsTheInvariant :
    let s := ((withRf 1 0x000F 2 0x0001).setMem storedWords).loadInstr 0x0100 0x8812
    s.Inv ∧ ∃ t, step s = .next t :=
  ⟨⟨by decide, by decide, by decide⟩, _, rfl⟩

theorem witness_StepKeepsTheParameters :
    ∃ t, step (({ start with params := guarded }).loadInstr 0x0100 0x8C00) = .next t := ⟨_, rfl⟩

theorem witness_OnlyTheNamedInstructionsWriteTheAcBank :
    ∃ t, exec (.addi 3 0xFF) start = .next t ∧ t.readAc 3 ≠ start.readAc 3 := ⟨_, rfl, by decide⟩

/-- The rf bank changed by `mfac`, by `push` with `sp` in `rf[14]`, and by `jal` with `lk` in `rf[15]`. -/
theorem witness_OnlyMfacWritesTheRfBank :
    (let s := withAc 0 0x0001
     ∃ t, exec (.mfac 0 15) s = .next t ∧ t.readRf 15 ≠ s.readRf 15)
    ∧ (let s := { start with params := { vectorParams with spLoc := .rf 14 } }
       ∃ t, exec (.push 0) s = .next t ∧ t.readRf 14 ≠ s.readRf 14)
    ∧ (let s := { start with params := { vectorParams with lkLoc := .rf 15 } }
       ∃ t, exec (.jal 0) s = .next t ∧ t.readRf 15 ≠ s.readRf 15) :=
  ⟨⟨_, rfl, by decide⟩, ⟨_, rfl, by decide⟩, ⟨_, rfl, by decide⟩⟩

theorem witness_HiLoSpAndLkHaveFewWriters :
    (let s := withAc 0 0x0001
     (∃ t, exec (.mth 0) s = .next t ∧ t.hi ≠ s.hi) ∧ ∃ t, exec (.mtl 0) s = .next t ∧ t.lo ≠ s.lo)
    ∧ (∃ t, exec (.push 0) start = .next t ∧ t.sp ≠ start.sp)
    ∧ ∃ t, exec (.jrl 0) start = .next t ∧ t.lk ≠ start.lk :=
  ⟨⟨⟨_, rfl, by decide⟩, ⟨_, rfl, by decide⟩⟩, ⟨_, rfl, by decide⟩, ⟨_, rfl, by decide⟩⟩

/-- The low cell of word 0x0003 changed by `swr`, the high cell of word 0xFFFF by `push`. -/
theorem witness_OnlySwrAndPushWriteMemory :
    (let s := (withRf 1 0x0001 2 0x0002).writeAc 0 0x1234
     ∃ t, exec (.swr 0 1 2) s = .next t ∧ t.mem.read 6 ≠ s.mem.read 6)
    ∧ ∃ t, exec (.push 0) start = .next t ∧ t.mem.read 131071 ≠ start.mem.read 131071 :=
  ⟨⟨_, rfl, by decide⟩, ⟨_, rfl, by decide⟩⟩

theorem witness_OnlyControlInstructionsLeaveTheSequence :
    ∃ t, exec (.ja 0) start = .next t ∧ t.pc ≠ start.pc + 1 := ⟨_, rfl, by decide⟩

/-- A step of `swr` with two memories. -/
theorem witness_SeparateInstructionMemoryIsNeverWritten :
    let s := ({ withRf 1 0x0001 2 0x0002 with params := halfMap }).loadInstr 0x0100 0x8812
    s.params.memUnified = false ∧ ∃ t, step s = .next t := ⟨by decide, _, rfl⟩

theorem witness_UnifiedStoreIsSeenByTheNextFetch :
    let s := (withRf 1 0x0100 2 0x0001).writeAc 0 0x9400
    s.params.memUnified = true ∧ inRanges s.params.instrMap (s.pc + 1) = true ∧ s.indexedAddr 1 2 = s.pc + 1
    ∧ ∃ t, exec (.swr 0 1 2) s = .next t := ⟨by decide, by decide, by decide, _, rfl⟩

/-- A step that goes on, writing the dedicated `lk`, and a step that faults. -/
theorem witness_DedicatedLkNeverInfluencesAnything :
    start.params.lkLoc = .dedicated ∧ (∃ t, step (start.loadInstr 0x0100 0x9800) = .next t)
    ∧ step start = .fault (.uninitRead 0x0100 0x0100) := ⟨by decide, ⟨_, rfl⟩, rfl⟩

theorem witness_HaltIdiomIsAFixedPoint : ((start.setPc 0xFFFF).loadInstr 0xFFFF 0x97FF).halted = true := by decide

/-- A run that ends at once and one that faults at its first step. -/
theorem witness_EndedRunsStayEnded :
    (∃ t, runUntilHalt 0 (start.loadInstr 0x0100 0x9500) = .final t)
    ∧ (∃ t, runUntilHalt 2 ((start.loadInstr 0x0100 0x0000).loadInstr 0x0101 0x9501) = .final t)
    ∧ runUntilHalt 1 start = .faulted (.uninitRead 0x0100 0x0100) := ⟨⟨_, rfl⟩, ⟨_, rfl⟩, by decide⟩

/-- The largest operands with `carry`, and the largest multiplicand either reading allows. -/
theorem witness_SixteenTmulStepsMultiply :
    (let s := { withRf 5 0xFFFF 0 0 with lo := 0xFFFF, params := { vectorParams with tmulTopBit := .carry } }
     s.hi = 0 ∧ s.params.tmulTopBit = .carry)
    ∧ (let s := { withRf 5 0x8000 0 0 with lo := 0xFFFF, params := vectorParams }
       s.hi = 0 ∧ (s.readRf 5).toNat ≤ 0x8000) := by decide

/-- The divisors 1 and 0x8000. -/
theorem witness_SeventeenTdivStepsDivide :
    (let s := { withRf 6 0x0001 0 0 with lo := 0xFFFF }
     s.hi = 0 ∧ 1 ≤ (s.readRf 6).toNat ∧ (s.readRf 6).toNat ≤ 0x8000)
    ∧ (let s := { withRf 6 0x8000 0 0 with lo := 0xFFFF }
       s.hi = 0 ∧ 1 ≤ (s.readRf 6).toNat ∧ (s.readRf 6).toNat ≤ 0x8000) := by decide

theorem witness_TdivByZeroShiftsTheDividendOut :
    let s := { start with lo := 0x8001 }
    s.hi = 0 ∧ s.readRf 6 = 0 := by decide

/-- V31 -/
theorem test_tdiv_zero_divisor : after (stepOn 0x3806 { start with hi := 0x1234, lo := 0x5678 }) (fun t => (t.hi, t.lo)) = some (0x2468, 0xACF0) := by
  decide

theorem witness_CanonicalMemoriesThatReadAlikeAreEqual :
    Memory.wf storedWords = true ∧
    Memory.wf (Memory.writeWord (Memory.writeWord (Memory.writeWord [] 0x7FFF 0x3333) 0x000F 0x1111) 0x0010 0x2222) = true
    ∧ storedWords = Memory.writeWord (Memory.writeWord (Memory.writeWord [] 0x7FFF 0x3333) 0x000F 0x1111) 0x0010 0x2222 := by
  decide

/-- The word of `lwr` and of `tmul` as the first instruction after reset. -/
theorem test_reset_runs_lwr_and_tmul :
    after (step (State.reset.withFetchWord 16 0x8400)) (fun t => (t.readAc 0, t.pc)) = some (0x8400, 0x0001)
    ∧ after (step (State.reset.withFetchWord 16 0x3400)) (fun t => (t.hi, t.lo, t.pc)) = some (0, 0, 1) := by decide

/-- The last word that decodes to `nope`. -/
theorem witness_NopeChangesOnlyPc : (0x03FF#16).toNat ≤ 0x03FF := by decide

/-- A run whose first terminal state is one step away, with the limit 1; a fault at the second step, with the limit 2;
and a run that has not ended. -/
theorem witness_RunStopsAtTheFirstTerminalState :
    (∃ t, runUntilHalt 1 ((start.loadInstr 0x0100 0x0000).loadInstr 0x0101 0x9501) = .final t)
    ∧ runUntilHalt 2 (start.loadInstr 0x0100 0x0000) = .faulted (.uninitRead 0x0101 0x0101)
    ∧ ∃ t, runUntilHalt 0 (start.loadInstr 0x0100 0x0000) = .running t := ⟨⟨_, rfl⟩, rfl, ⟨_, rfl⟩⟩

/-- Two words from the last address on, which wraps; and the longest list of words the statement is about. -/
theorem witness_LoadedImageReadsBackInEitherByteOrder :
    [0x1234#16, 0x5678#16].length ≤ 65536 ∧ (List.replicate 65536 (0x0000#16 : Word)).length ≤ 65536
    ∧ [0x1234#16, 0x5678#16][1]? = some 0x5678#16 ∧ ∀ k < 2, (0x0001#16 : Word) ≠ 0xFFFF#16 + BitVec.ofNat 16 k :=
  ⟨by decide, List.length_replicate.le, by decide, by decide⟩

theorem witness_ImageByteOrderAndResetPcInfluenceNoStep :
    (∃ t, step (start.loadInstr 0x0100 0x8C00) = .next t) ∧ step start = .fault (.uninitRead 0x0100 0x0100) :=
  ⟨⟨_, rfl⟩, rfl⟩

/-- V79 in an image file of each byte order. -/
theorem test_load_program_image :
    ((State.initial { vectorParams with resetPc := 0x0200, imageByteOrder := .big }).loadProgramImage 0x0200
      [0x7D, 0x12]).map (fun s => after (step s) (fun t => (t.readAc 1, t.pc))) = some (some (0x1200, 0x0201))
    ∧ ((State.initial { vectorParams with resetPc := 0x0200, imageByteOrder := .little }).loadProgramImage 0x0200
      [0x12, 0x7D]).map (fun s => after (step s) (fun t => (t.readAc 1, t.pc))) = some (some (0x1200, 0x0201)) := by
  decide

/-- A file that ends within a word is no image. -/
theorem test_cut_image_refused : (start.loadDataImage 0x0000 [0x12, 0x34, 0x56]).isNone = true := by decide

end Sys2Proof.Tests
end

