-- ==== Sys2Proof/Proofs/DecodeFields.lean ====
section
/-! SUPPORT. The fields of a word put together again, a word masked to the bits its row names, and what `decode`
answers: the instruction whose encoding is the word with its unused bits cleared (R66, R67, R72). -/

namespace Sys2Proof

/-! ## A word is the concatenation of its fields (R66) -/

theorem encodeR_fields {w : Word} {op : BitVec 6} (h : opcodeField w = op) :
    encodeR op (acField w) (rf1Field w) (rf2Field w) = w := by
  rw [← h, ← BitVec.toNat_inj, encodeR_toNat, opcodeField, acField, rf1Field, rf2Field]
  simp only [extractLsb'_toNat_eq]
  omega

/-- The S-type lays out its bits as the R-type does, with the count in the place of `rf2` (R64). -/
theorem encodeS_fields {w : Word} {op : BitVec 6} (h : opcodeField w = op) :
    encodeS op (acField w) (rf1Field w) (shamtField w) = w := encodeR_fields h

theorem encodeI_fields {w : Word} {op : BitVec 6} (h : opcodeField w = op) :
    encodeI op (acField w) (imm8Field w) = w := by
  rw [← h, ← BitVec.toNat_inj, encodeI_toNat, opcodeField, acField, imm8Field]
  simp only [extractLsb'_toNat_eq]
  omega

theorem encodeJ_fields {w : Word} {op : BitVec 6} (h : opcodeField w = op) : encodeJ op (imm10Field w) = w := by
  rw [← h, ← BitVec.toNat_inj, encodeJ_toNat, opcodeField, imm10Field]
  simp only [extractLsb'_toNat_eq]
  omega

/-! ## A word with its unused bits cleared (R72)

A mask is itself a word of the R-type, so masking a word masks each of its fields. -/

theorem encodeN_eq_encodeR (op : BitVec 6) : encodeN op = encodeR op 0#2 0#4 0#4 := by
  have encodeN_toNat : (encodeN op).toNat = op.toNat * 1024 + (0#10).toNat := encodeJ_toNat op 0#10
  rw [← BitVec.toNat_inj, encodeR_toNat, encodeN_toNat]
  simp only [BitVec.toNat_ofNat, Nat.zero_mod, Nat.zero_mul, Nat.add_zero]

theorem encodeR_and_encodeR (op op' : BitVec 6) (a a' : AcReg) (r1 r1' r2 r2' : RfReg) :
    encodeR op a r1 r2 &&& encodeR op' a' r1' r2' = encodeR (op &&& op') (a &&& a') (r1 &&& r1') (r2 &&& r2') := by
  have h : (op ++ a ++ r1 ++ r2) &&& (op' ++ a' ++ r1' ++ r2')
      = (op &&& op') ++ (a &&& a') ++ (r1 &&& r1') ++ (r2 &&& r2') := by simp only [BitVec.and_append]
  exact h

theorem and_encodeR_allOnes {w : Word} {op : BitVec 6} (h : opcodeField w = op) (a : AcReg) (r1 r2 : RfReg) :
    w &&& encodeR (.allOnes 6) a r1 r2 = encodeR op (acField w &&& a) (rf1Field w &&& r1) (rf2Field w &&& r2) := by
  conv_lhs => rw [← encodeR_fields h, encodeR_and_encodeR, BitVec.and_allOnes]

theorem encodeR_acField_rf1Field {w : Word} {op : BitVec 6} (h : opcodeField w = op) :
    encodeR op (acField w) (rf1Field w) 0#4 = w &&& 0xFFF0#16 := by
  have masked := and_encodeR_allOnes h (.allOnes 2) (.allOnes 4) 0#4
  simp only [BitVec.and_allOnes, BitVec.and_zero] at masked
  exact masked.symm

theorem encodeR_acField {w : Word} {op : BitVec 6} (h : opcodeField w = op) :
    encodeR op (acField w) 0#4 0#4 = w &&& 0xFF00#16 := by
  have masked := and_encodeR_allOnes h (.allOnes 2) 0#4 0#4
  simp only [BitVec.and_allOnes, BitVec.and_zero] at masked
  exact masked.symm

theorem encodeR_rf1Field {w : Word} {op : BitVec 6} (h : opcodeField w = op) :
    encodeR op 0#2 (rf1Field w) 0#4 = w &&& 0xFCF0#16 := by
  have masked := and_encodeR_allOnes h 0#2 (.allOnes 4) 0#4
  simp only [BitVec.and_allOnes, BitVec.and_zero] at masked
  exact masked.symm

theorem encodeR_rf2Field {w : Word} {op : BitVec 6} (h : opcodeField w = op) :
    encodeR op 0#2 0#4 (rf2Field w) = w &&& 0xFC0F#16 := by
  have masked := and_encodeR_allOnes h 0#2 0#4 (.allOnes 4)
  simp only [BitVec.and_allOnes, BitVec.and_zero] at masked
  exact masked.symm

theorem encodeN_opcodeField {w : Word} {op : BitVec 6} (h : opcodeField w = op) :
    encodeN op = w &&& 0xFC00#16 := by
  have masked := and_encodeR_allOnes h 0#2 0#4 0#4
  simp only [BitVec.and_zero, ← encodeN_eq_encodeR] at masked
  exact masked.symm

theorem and_mask_all (w : Word) : w &&& 0xFFFF#16 = w := BitVec.and_allOnes

/-! ## What `decode` answers (R67) -/

theorem opcode_of_decode {w : Word} {i : Instr} (h : decode w = .ok i) : i.opcode = opcodeField w := by
  rw [← BitVec.toNat_inj]
  unfold decode at h
  split at h <;> cases h
  all_goals
    rename_i hrow
    exact hrow.symm

/-- The operands are the bits the format gives them: encoding the instruction gives the word back, unused bits
cleared. -/
theorem encode_of_decode {w : Word} {i : Instr} (h : decode w = .ok i) : encode i = w &&& i.usedBits := by
  have hop : opcodeField w = i.opcode := (opcode_of_decode h).symm
  unfold decode at h
  split at h <;> cases h
  all_goals
    rw [Instr.opcode] at hop
    simp only [encode, Instr.usedBits, and_mask_all, encodeR_fields hop, encodeS_fields hop, encodeI_fields hop,
      encodeJ_fields hop, encodeR_acField_rf1Field hop, encodeR_acField hop, encodeR_rf1Field hop,
      encodeR_rf2Field hop, encodeN_opcodeField hop]

/-- A word is rejected only for its opcode, 49 to 63 (R76). -/
theorem reject_of_decode {w : Word} {e : DecodeReject} (h : decode w = .error e) :
    49 ≤ (opcodeField w).toNat ∧ e = .illegalOpcode w := by
  unfold decode at h
  split at h <;> cases h
  have hge : 49 ≤ (opcodeField w).toNat := by simp only [imp_false] at *; omega
  exact ⟨hge, rfl⟩

theorem opcode_le_48 (i : Instr) : i.opcode.toNat ≤ 48 := by
  cases i <;> exact Nat.le_of_ble_eq_true rfl

theorem exists_decode_eq_ok_iff {w : Word} : (∃ i, decode w = .ok i) ↔ (opcodeField w).toNat ≤ 48 := by
  constructor
  · rintro ⟨i, hok⟩
    exact opcode_of_decode hok ▸ opcode_le_48 i
  · intro hle
    cases hd : decode w with
    | ok i => exact ⟨i, rfl⟩
    | error e => obtain ⟨hge, -⟩ := reject_of_decode hd; omega

theorem decode_eq_illegalOpcode_iff {w : Word} :
    decode w = .error (.illegalOpcode w) ↔ 49 ≤ (opcodeField w).toNat := by
  constructor
  · exact fun h => (reject_of_decode h).1
  · intro hge
    cases hd : decode w with
    | ok i => have hle := exists_decode_eq_ok_iff.1 ⟨i, hd⟩; omega
    | error e => rw [(reject_of_decode hd).2]

end Sys2Proof
end

