-- ==== Sys2Proof/Proofs/OpcodeSelection.lean ====
section
/-! The opcode field selects the row (R67). -/

namespace Sys2Proof

/-- Settles O3. Opcodes 0 to 48 and 49 to 63 are the two answers of `decode`; what it accepts re-encodes to the word
with its unused bits cleared. -/
theorem opcodeFieldSelectsTheInstruction : Obligations.OpcodeFieldSelectsTheInstruction := by
  intro w
  refine ⟨fun hle => ?_, fun hge => decode_eq_illegalOpcode_iff.2 hge⟩
  obtain ⟨i, hok⟩ := exists_decode_eq_ok_iff.2 hle
  exact ⟨i, hok, opcode_of_decode hok, encode_of_decode hok⟩

end Sys2Proof
end

section
/-! `nope`: its words are those of opcode 0, and it moves `pc` on and nothing else (R100). -/

namespace Sys2Proof

/-- The words of opcode 0 are the first 1024. -/
theorem opcodeField_eq_zero_iff {w : Word} : opcodeField w = 0#6 ↔ w.toNat ≤ 0x03FF := by
  have field : (opcodeField w).toNat = w.toNat / 2 ^ 10 % 2 ^ 6 := extractLsb'_toNat_eq w 10 6
  have bound : w.toNat < 2 ^ 16 := w.isLt
  rw [← BitVec.toNat_inj, field, BitVec.toNat_ofNat]
  omega

/-- The opcode alone selects `nope`: it has no operand, and its other bits are unused (R61, R72). -/
theorem decode_eq_nope_iff {w : Word} : decode w = .ok .nope ↔ opcodeField w = 0#6 := by
  constructor
  · exact fun hok => (opcode_of_decode hok).symm
  · intro hop
    unfold decode
    rw [hop]
    rfl

end Sys2Proof

namespace Sys2Proof.Machine

theorem exec_nope_eq (s : State) : exec .nope s = .next s.advance := rfl

/-- Settles O8. The words of `nope` are those of opcode 0, and its step is `State.advance`, which moves `pc` only. -/
theorem nopeChangesOnlyPc : Obligations.NopeChangesOnlyPc := by
  have canonical : encode .nope = 0x0000#16 := by decide
  have decoded (w : Word) (hw : w.toNat ≤ 0x03FF) : decode w = .ok .nope :=
    decode_eq_nope_iff.2 (opcodeField_eq_zero_iff.2 hw)
  have jumps (s : State) : JumpsTo .nope s (s.pc + 1) :=
    ⟨s.advance, exec_nope_eq s, State.advance_pc s, unchanged_setPc s s.nextPc⟩
  exact ⟨canonical, decoded, jumps⟩

end Sys2Proof.Machine
end

section
/-! SUPPORT. What a register-form instruction is: its canonical word as the rules write it (R62, R66), and an instruction
that writes one ac register and goes on (R20, R30). -/

namespace Sys2Proof.Machine

/-- The base the rules write is the opcode with every operand field zero (R61). The fields do not overlap, so at each
bit only one part of the OR can be set. -/
theorem encodeR_eq_regWord (op : BitVec 6) (a : AcReg) (r1 r2 : RfReg) :
    encodeR op a r1 r2 = regWord (encodeN op) a r1 r2 := by
  have fields : op ++ a ++ r1 ++ r2
      = (op ++ 0#10) ||| (a.setWidth 16 <<< 8) ||| (r1.setWidth 16 <<< 4) ||| r2.setWidth 16 := by
    ext i hi
    simp only [BitVec.getElem_append, BitVec.getElem_or, BitVec.getElem_shiftLeft, BitVec.getElem_setWidth]
    grind
  exact fields

/-- An instruction whose meaning is one ac write and the advance of `pc` changes nothing else. -/
theorem writesAc_of_exec_eq {i : Instr} {s : State} {a : AcReg} {v : Word} {P : Word → Prop}
    (hexec : exec i s = .next (s.writeAc a v).advance) (hv : P v) : WritesAc i s a P := by
  have written : (s.writeAc a v).advance.readAc a = v := by rw [State.readAc_advance, State.readAc_writeAc_same]
  exact ⟨_, hexec, written.symm ▸ hv, State.advance_pc _, unchanged_writeAc s a v _⟩

end Sys2Proof.Machine
end

section
/-! Logical and Arithmetic Operations (spec/41_logical_arithmetic.md): `add` and `sub` modulo 2^16 (R101, R102), and the
seven bitwise instructions (R103 to R109). -/

namespace Sys2Proof.Machine

/-! ## The meanings -/

section
variable (a : AcReg) (r1 r2 : RfReg) (s : State)

theorem exec_add_eq : exec (.add a r1 r2) s = .next (s.writeAc a (s.readRf r1 + s.readRf r2)).advance := rfl

theorem exec_sub_eq : exec (.sub a r1 r2) s = .next (s.writeAc a (s.readRf r1 - s.readRf r2)).advance := rfl

theorem exec_not_eq : exec (.not a r1) s = .next (s.writeAc a (~~~s.readRf r1)).advance := rfl

theorem exec_and_eq : exec (.and a r1 r2) s = .next (s.writeAc a (s.readRf r1 &&& s.readRf r2)).advance := rfl

theorem exec_or_eq : exec (.or a r1 r2) s = .next (s.writeAc a (s.readRf r1 ||| s.readRf r2)).advance := rfl

theorem exec_xor_eq : exec (.xor a r1 r2) s = .next (s.writeAc a (s.readRf r1 ^^^ s.readRf r2)).advance := rfl

theorem exec_nand_eq : exec (.nand a r1 r2) s = .next (s.writeAc a (~~~(s.readRf r1 &&& s.readRf r2))).advance := rfl

theorem exec_nor_eq : exec (.nor a r1 r2) s = .next (s.writeAc a (~~~(s.readRf r1 ||| s.readRf r2))).advance := rfl

theorem exec_xnor_eq : exec (.xnor a r1 r2) s = .next (s.writeAc a (~~~(s.readRf r1 ^^^ s.readRf r2))).advance := rfl

end

/-! ## Words as numbers and as bits -/

/-- The sum of two words is their integer sum modulo 2^16 (R12). -/
theorem toNat_add_eq_emod (x y : Word) : ((x + y).toNat : ℤ) = (x.toNat + y.toNat : ℤ) % 65536 := by
  rw [BitVec.toNat_add]; omega

/-- The difference of two words is their integer difference modulo 2^16 (R12). -/
theorem toNat_sub_eq_emod (x y : Word) : ((x - y).toNat : ℤ) = (x.toNat - y.toNat : ℤ) % 65536 := by
  rw [BitVec.toNat_sub]; omega

/-- Inside the word, each bit of the complement is the complement of the bit. -/
theorem getLsbD_not_of_lt (x : Word) {k : ℕ} (hk : k < 16) : (~~~x).getLsbD k = !x.getLsbD k := by
  rw [BitVec.getLsbD_not, decide_eq_true hk, Bool.true_and]

/-! ## The statements -/

/-- Settles O9. Each is one ac write, of the sum or the difference of two words. -/
theorem addAndSubWrapModulo65536 : Obligations.AddAndSubWrapModulo65536 := by
  intro a r1 r2 s
  refine ⟨encodeR_eq_regWord 1#6 a r1 r2, encodeR_eq_regWord 2#6 a r1 r2, ?add, ?sub⟩
  case add => exact writesAc_of_exec_eq (exec_add_eq a r1 r2 s) (toNat_add_eq_emod _ _)
  case sub => exact writesAc_of_exec_eq (exec_sub_eq a r1 r2 s) (toNat_sub_eq_emod _ _)

/-- Settles O10. Each is one ac write of a bitwise operation, whose bits the library gives; a complement needs `k < 16`,
as the bits past the word read 0. -/
theorem logicalOperationsActBitByBit : Obligations.LogicalOperationsActBitByBit := by
  intro a r1 r2 s
  refine ⟨encodeR_eq_regWord 3#6 a r1 0, encodeR_eq_regWord 4#6 a r1 r2, encodeR_eq_regWord 5#6 a r1 r2,
    encodeR_eq_regWord 6#6 a r1 r2, encodeR_eq_regWord 7#6 a r1 r2, encodeR_eq_regWord 8#6 a r1 r2,
    encodeR_eq_regWord 9#6 a r1 r2, ?not, ?and, ?or, ?xor, ?nand, ?nor, ?xnor⟩
  case not => exact writesAc_of_exec_eq (exec_not_eq a r1 s) fun _ hk => getLsbD_not_of_lt _ hk
  case and => exact writesAc_of_exec_eq (exec_and_eq a r1 r2 s) fun _ _ => BitVec.getLsbD_and
  case or => exact writesAc_of_exec_eq (exec_or_eq a r1 r2 s) fun _ _ => BitVec.getLsbD_or
  case xor => exact writesAc_of_exec_eq (exec_xor_eq a r1 r2 s) fun _ _ => BitVec.getLsbD_xor
  case nand =>
    exact writesAc_of_exec_eq (exec_nand_eq a r1 r2 s) fun _ hk => by rw [getLsbD_not_of_lt _ hk, BitVec.getLsbD_and]
  case nor =>
    exact writesAc_of_exec_eq (exec_nor_eq a r1 r2 s) fun _ hk => by rw [getLsbD_not_of_lt _ hk, BitVec.getLsbD_or]
  case xnor =>
    exact writesAc_of_exec_eq (exec_xnor_eq a r1 r2 s) fun _ hk => by
      rw [getLsbD_not_of_lt _ hk, BitVec.getLsbD_xor]
      exact Bool.not_not _

end Sys2Proof.Machine
end

section
/-! Shift Operations (spec/42_shift.md): the logical shifts multiply and divide by powers of two (R120, R121). -/

namespace Sys2Proof.Machine

/-! ## The meanings -/

theorem exec_sll_eq (a : AcReg) (r1 : RfReg) (shamt : Shamt) (s : State) :
    exec (.sll a r1 shamt) s = .next (s.writeAc a (s.readRf r1 <<< shamt.toNat)).advance :=
  shiftReg_eq (fun x n => x <<< n) a r1 shamt s

theorem exec_srl_eq (a : AcReg) (r1 : RfReg) (shamt : Shamt) (s : State) :
    exec (.srl a r1 shamt) s = .next (s.writeAc a (s.readRf r1 >>> shamt.toNat)).advance :=
  shiftReg_eq (fun x n => x >>> n) a r1 shamt s

/-! ## Shifts as arithmetic -/

/-- The bits shifted past bit 15 are the part of the product that the reduction modulo 2^16 drops (R12). -/
theorem toNat_shiftLeft_eq_mul_pow_mod (x : Word) (n : ℕ) : (x <<< n).toNat = x.toNat * 2 ^ n % 65536 := by
  rw [BitVec.toNat_shiftLeft, Nat.shiftLeft_eq]

/-- The bits shifted past bit 0 are the remainder of the division. -/
theorem toNat_ushiftRight_eq_div_pow (x : Word) (n : ℕ) : (x >>> n).toNat = x.toNat / 2 ^ n := by
  rw [BitVec.toNat_ushiftRight, Nat.shiftRight_eq_div_pow]

/-! ## The statement -/

/-- Settles O15. Each is one ac write of a shifted word; the S-type has the layout of the R-type, with the count in the
place of `rf2` (R64). -/
theorem logicalShiftsMultiplyAndDivideByPowersOfTwo : Obligations.LogicalShiftsMultiplyAndDivideByPowersOfTwo := by
  intro a r1 shamt s
  refine ⟨encodeR_eq_regWord 10#6 a r1 shamt, encodeR_eq_regWord 11#6 a r1 shamt, ?sll, ?srl⟩
  case sll => exact writesAc_of_exec_eq (exec_sll_eq a r1 shamt s) (toNat_shiftLeft_eq_mul_pow_mod _ _)
  case srl => exact writesAc_of_exec_eq (exec_srl_eq a r1 shamt s) (toNat_ushiftRight_eq_div_pow _ _)

end Sys2Proof.Machine
end

section
/-! Move Operations (spec/43_move.md): the copies between an ac register and `lo` or `hi` (R130 to R133). -/

namespace Sys2Proof.Machine

/-! ## The meanings -/

section
variable (a : AcReg) (s : State)

theorem exec_mtl_eq : exec (.mtl a) s = .next (s.setLo (s.readAc a)).advance := rfl

theorem exec_mfl_eq : exec (.mfl a) s = .next (s.writeAc a s.lo).advance := rfl

theorem exec_mth_eq : exec (.mth a) s = .next (s.setHi (s.readAc a)).advance := rfl

theorem exec_mfh_eq : exec (.mfh a) s = .next (s.writeAc a s.hi).advance := rfl

end

/-! ## The frames of the half registers -/

/-- Writing `lo` keeps `hi` and both banks (R130). -/
theorem unchanged_setLo (s : State) (v pc' : Word) : Unchanged { lo := true } s ((s.setLo v).setPc pc') :=
  ⟨fun _ _ => rfl, fun _ _ => rfl, fun _ => rfl, nofun, fun _ => rfl, fun _ => rfl, fun _ _ => rfl, fun _ => rfl, rfl⟩

/-- Writing `hi` keeps `lo` and both banks (R132). -/
theorem unchanged_setHi (s : State) (v pc' : Word) : Unchanged { hi := true } s ((s.setHi v).setPc pc') :=
  ⟨fun _ _ => rfl, fun _ _ => rfl, nofun, fun _ => rfl, fun _ => rfl, fun _ => rfl, fun _ _ => rfl, fun _ => rfl, rfl⟩

/-! ## The statement -/

/-- Settles O17. The moves from `lo` and `hi` are each one ac write; the moves to them each write one half register,
which `State.advance` keeps. -/
theorem movesCopyHiAndLo : Obligations.MovesCopyHiAndLo := by
  intro a s
  refine ⟨encodeR_eq_regWord 15#6 a 0 0, encodeR_eq_regWord 16#6 a 0 0, encodeR_eq_regWord 17#6 a 0 0,
    encodeR_eq_regWord 18#6 a 0 0, ?mtl, ?mth, ?mfl, ?mfh⟩
  case mtl =>
    have copied : (s.setLo (s.readAc a)).advance.lo = s.readAc a := by rw [State.advance_lo, State.setLo_lo]
    exact ⟨_, exec_mtl_eq a s, copied, State.advance_pc _, unchanged_setLo s _ _⟩
  case mth =>
    have copied : (s.setHi (s.readAc a)).advance.hi = s.readAc a := by rw [State.advance_hi, State.setHi_hi]
    exact ⟨_, exec_mth_eq a s, copied, State.advance_pc _, unchanged_setHi s _ _⟩
  case mfl => exact writesAc_of_exec_eq (exec_mfl_eq a s) rfl
  case mfh => exact writesAc_of_exec_eq (exec_mfh_eq a s) rfl

end Sys2Proof.Machine
end

section
/-! Immediate Operations (spec/44_immediate.md): the sign-extended arithmetic (R140, R141), the zero-extended logic
(R142 to R147) and the loads of a byte (R148 to R150). -/

namespace Sys2Proof.Machine

/-! ## The canonical word (R63, R66) -/

/-- The base the rules write is the opcode with the operand fields zero (R61): concatenation shifts each field to its
place and ORs it in. -/
theorem encodeI_eq_immWord (op : BitVec 6) (a : AcReg) (imm : Imm8) :
    encodeI op a imm = immWord (encodeN op) a imm := by
  have fields : (op ++ a ++ imm).setWidth 16 = op.setWidth 16 <<< 10 ||| a.setWidth 16 <<< 8 ||| imm.setWidth 16 :=
    BitVec.setWidth_append_append_eq_shiftLeft_setWidth_or
  have base : (op ++ 0#10).setWidth 16 = op.setWidth 16 <<< 10 ||| 0#16 :=
    BitVec.setWidth_append_eq_shiftLeft_setWidth_or
  rw [BitVec.setWidth_eq] at fields
  rw [BitVec.setWidth_eq, BitVec.or_zero] at base
  rw [encodeI, encodeN, immWord, fields, base]

/-! ## The meanings -/

section
variable (a : AcReg) (imm : Imm8) (s : State)

theorem exec_addi_eq : exec (.addi a imm) s = .next (s.writeAc a (s.readAc a + sext16 imm)).advance :=
  aluImm_eq (fun x y => x + y) a (sext16 imm) s

theorem exec_subi_eq : exec (.subi a imm) s = .next (s.writeAc a (s.readAc a - sext16 imm)).advance :=
  aluImm_eq (fun x y => x - y) a (sext16 imm) s

theorem exec_andi_eq : exec (.andi a imm) s = .next (s.writeAc a (s.readAc a &&& zext16 imm)).advance :=
  aluImm_eq (fun x y => x &&& y) a (zext16 imm) s

theorem exec_ori_eq : exec (.ori a imm) s = .next (s.writeAc a (s.readAc a ||| zext16 imm)).advance :=
  aluImm_eq (fun x y => x ||| y) a (zext16 imm) s

theorem exec_xori_eq : exec (.xori a imm) s = .next (s.writeAc a (s.readAc a ^^^ zext16 imm)).advance :=
  aluImm_eq (fun x y => x ^^^ y) a (zext16 imm) s

theorem exec_nandi_eq : exec (.nandi a imm) s = .next (s.writeAc a (~~~(s.readAc a &&& zext16 imm))).advance :=
  aluImm_eq (fun x y => ~~~(x &&& y)) a (zext16 imm) s

theorem exec_nori_eq : exec (.nori a imm) s = .next (s.writeAc a (~~~(s.readAc a ||| zext16 imm))).advance :=
  aluImm_eq (fun x y => ~~~(x ||| y)) a (zext16 imm) s

theorem exec_xnori_eq : exec (.xnori a imm) s = .next (s.writeAc a (~~~(s.readAc a ^^^ zext16 imm))).advance :=
  aluImm_eq (fun x y => ~~~(x ^^^ y)) a (zext16 imm) s

theorem exec_lli_eq : exec (.lli a imm) s = .next (s.writeAc a (zext16 imm)).advance := loadImm_eq a (zext16 imm) s

theorem exec_lui_eq : exec (.lui a imm) s = .next (s.writeAc a (highByte16 imm)).advance :=
  loadImm_eq a (highByte16 imm) s

theorem exec_lsi_eq : exec (.lsi a imm) s = .next (s.writeAc a (sext16 imm)).advance := loadImm_eq a (sext16 imm) s

end

/-! ## The extended immediates as numbers and as bits (R13, R68) -/

/-- Sign extension keeps the two's-complement value. -/
theorem toInt_sext16 (imm : Imm8) : (sext16 imm).toInt = imm.toInt := BitVec.toInt_signExtend_of_le (by decide)

/-- Zero extension keeps the unsigned value. -/
theorem toNat_zext16 (imm : Imm8) : (zext16 imm).toNat = imm.toNat := by
  rw [zext16, BitVec.toNat_append, BitVec.toNat_ofNat, Nat.zero_mod, Nat.zero_shiftLeft, Nat.zero_or]

/-- A byte above a zero byte is the byte times 256. -/
theorem toNat_highByte16 (imm : Imm8) : (highByte16 imm).toNat = imm.toNat * 256 := by
  rw [highByte16, BitVec.toNat_append, BitVec.toNat_ofNat, Nat.zero_mod, Nat.or_zero, Nat.shiftLeft_eq]

/-- The bits of the zero-extended immediate: `imm` below bit 8, and 0 from there on. -/
theorem getLsbD_zext16 (imm : Imm8) (k : ℕ) : (zext16 imm).getLsbD k = (decide (k < 8) && imm.getLsbD k) := by
  rw [zext16, BitVec.getLsbD_append, BitVec.getLsbD_zero]
  by_cases hk : k < 8
  · rw [if_pos hk, decide_eq_true hk, Bool.true_and]
  · rw [if_neg hk, decide_eq_false hk, Bool.false_and]

/-- A sum of words, read in two's complement, is the integer sum brought into the signed range (R12). -/
theorem toInt_add_sext16 (x : Word) (imm : Imm8) : (x + sext16 imm).toInt = (x.toInt + imm.toInt).bmod 65536 := by
  rw [BitVec.toInt_add, toInt_sext16]

/-- A difference of words, read in two's complement, is the integer difference brought into the signed range (R12). -/
theorem toInt_sub_sext16 (x : Word) (imm : Imm8) : (x - sext16 imm).toInt = (x.toInt - imm.toInt).bmod 65536 := by
  rw [BitVec.toInt_sub, toInt_sext16]

/-! ## The statements -/

/-- Settles O19. Each is one ac write, of the sum or the difference with the sign-extended immediate, which has the
value of the byte. -/
theorem arithmeticImmediatesSignExtend : Obligations.ArithmeticImmediatesSignExtend := by
  intro a imm s
  refine ⟨encodeI_eq_immWord 22#6 a imm, encodeI_eq_immWord 23#6 a imm, ?addi, ?subi⟩
  case addi => exact writesAc_of_exec_eq (exec_addi_eq a imm s) (toInt_add_sext16 _ imm)
  case subi => exact writesAc_of_exec_eq (exec_subi_eq a imm s) (toInt_sub_sext16 _ imm)

/-- Settles O20. Each is one ac write of a bitwise operation with the zero-extended immediate, whose bits from 8 on
are 0. -/
theorem logicalImmediatesZeroExtend : Obligations.LogicalImmediatesZeroExtend := by
  intro a imm s
  refine ⟨encodeI_eq_immWord 24#6 a imm, encodeI_eq_immWord 25#6 a imm, encodeI_eq_immWord 26#6 a imm,
    encodeI_eq_immWord 27#6 a imm, encodeI_eq_immWord 28#6 a imm, encodeI_eq_immWord 29#6 a imm,
    ?andi, ?ori, ?xori, ?nandi, ?nori, ?xnori⟩
  case andi =>
    exact writesAc_of_exec_eq (exec_andi_eq a imm s) fun k _ => by rw [BitVec.getLsbD_and, getLsbD_zext16]
  case ori =>
    exact writesAc_of_exec_eq (exec_ori_eq a imm s) fun k _ => by rw [BitVec.getLsbD_or, getLsbD_zext16]
  case xori =>
    exact writesAc_of_exec_eq (exec_xori_eq a imm s) fun k _ => by rw [BitVec.getLsbD_xor, getLsbD_zext16]
  case nandi =>
    exact writesAc_of_exec_eq (exec_nandi_eq a imm s) fun k hk => by
      rw [getLsbD_not_of_lt _ hk, BitVec.getLsbD_and, getLsbD_zext16]
  case nori =>
    exact writesAc_of_exec_eq (exec_nori_eq a imm s) fun k hk => by
      rw [getLsbD_not_of_lt _ hk, BitVec.getLsbD_or, getLsbD_zext16]
  case xnori =>
    exact writesAc_of_exec_eq (exec_xnori_eq a imm s) fun k hk => by
      rw [getLsbD_not_of_lt _ hk, BitVec.getLsbD_xor, getLsbD_zext16]
      exact Bool.not_not _

/-- Settles O21. Each is one ac write of an extension of the byte alone, which fixes its value. -/
theorem immediateLoadsExtendTheByte : Obligations.ImmediateLoadsExtendTheByte := by
  intro a imm s
  refine ⟨encodeI_eq_immWord 30#6 a imm, encodeI_eq_immWord 31#6 a imm, encodeI_eq_immWord 32#6 a imm,
    ?lli, ?lui, ?lsi⟩
  case lli => exact writesAc_of_exec_eq (exec_lli_eq a imm s) (toNat_zext16 imm)
  case lui => exact writesAc_of_exec_eq (exec_lui_eq a imm s) (toNat_highByte16 imm)
  case lsi => exact writesAc_of_exec_eq (exec_lsi_eq a imm s) (toInt_sext16 imm)

end Sys2Proof.Machine
end

section
/-! SUPPORT. What an instruction with one data access does: it goes on when the access is allowed, and stops with the
fault of the address otherwise (R42, R43, R53, R201); and the frames of a store and of a move of `sp` (R27, R43). -/

namespace Sys2Proof.Machine

/-! ## One access -/

section
variable {s : State} {a : Word}

theorem State.accessFault_of_outside (houtside : inRanges s.params.dataMap a = false) :
    s.accessFault a = some (.dataRange s.pc a) := by
  simp only [State.accessFault, houtside, Bool.false_eq_true, if_false]

theorem State.accessFault_of_guarded (hinside : inRanges s.params.dataMap a = true)
    (hguarded : inRanges s.params.codeText a = true) : s.accessFault a = some (.codeAccess s.pc a) := by
  simp only [State.accessFault, hinside, hguarded, if_true]

theorem load_completes {w : Word} (k : Word → State) (hacc : s.accessible a) (hword : s.mem.readWord a = some w) :
    afterAccess (s.memRead a) k = .next (k w) :=
  afterAccess_eq_next.2 ⟨w, State.memRead_eq_ok.2 ⟨hacc, hword⟩, rfl⟩

theorem load_faults {f : Fault} (k : Word → State) (hfault : s.accessFault a = some f) :
    afterAccess (s.memRead a) k = .fault f :=
  afterAccess_eq_fault.2 (State.memRead_eq_error.2 (.inl hfault))

theorem store_completes (v : Word) (k : State → State) (hacc : s.accessible a) :
    afterAccess (s.memWrite a v) k = .next (k (s.setMem (s.mem.writeWord a v))) :=
  afterAccess_eq_next.2 ⟨_, State.memWrite_eq_ok.2 ⟨hacc, rfl⟩, rfl⟩

theorem store_faults {f : Fault} (v : Word) (k : State → State) (hfault : s.accessFault a = some f) :
    afterAccess (s.memWrite a v) k = .fault f :=
  afterAccess_eq_fault.2 (State.memWrite_eq_error.2 hfault)

/-- An instruction that stops with whatever fault the address `a` gives stops with `DataRange` outside the data memory
and with `CodeAccess` on guarded program text (R201). -/
theorem faults_of_accessFault {i : Instr} (h : ∀ f, s.accessFault a = some f → exec i s = .fault f) :
    (inRanges s.params.dataMap a = false → exec i s = .fault (.dataRange s.pc a))
    ∧ (inRanges s.params.dataMap a = true → inRanges s.params.codeText a = true →
        exec i s = .fault (.codeAccess s.pc a)) :=
  ⟨fun houtside => h _ (State.accessFault_of_outside houtside),
    fun hinside hguarded => h _ (State.accessFault_of_guarded hinside hguarded)⟩

end

/-- One memory: a fetch reads what the data accesses read (R41). -/
theorem State.instrMem_of_unified {s : State} (h : s.params.memUnified = true) : s.instrMem = s.mem := if_pos h

/-! ## Frames -/

theorem Unchanged.advance {c : Changes} {s t : State} (h : Unchanged c s t) : Unchanged c s t.advance := h

/-- A store changes the cells of its own word and no register (R43). -/
theorem unchanged_setMem_writeWord (s : State) (a v : Word) :
    Unchanged { stored := some a } s (s.setMem (s.mem.writeWord a v)) := by
  refine ⟨fun _ _ => rfl, fun _ _ => rfl, fun _ => rfl, fun _ => rfl, fun _ => rfl, fun _ => rfl, fun k hk => ?_,
    fun _ => rfl, rfl⟩
  obtain ⟨hlow, hhigh⟩ := hk a rfl
  exact Memory.read_writeWord_outside s.mem a v hlow hhigh

/-- Moving `sp` after changes that keep both `sp` and the rf bank changes the one register that holds `sp` besides
them (R27). -/
theorem Unchanged.writeSp {c : Changes} {s t : State} (h : Unchanged c s t) (hrf : c.rf = none) (hsp : c.sp = false)
    (v : Word) : Unchanged (c.withSp s.params) s (t.writeSp v) := by
  obtain ⟨ac, rf, hi, lo, sp, lk, mem, imem, params⟩ := h
  have rfKept (r : RfReg) : t.readRf r = s.readRf r := rf r (by rw [hrf]; nofun)
  rcases t.writeSp_eq v with ⟨written, hloc⟩ | ⟨i, written, hloc⟩
  all_goals rw [params] at hloc; rw [written]
  case inl =>
    have spMoves : (c.withSp s.params).sp = true := by rw [Changes.withSp, hloc, RegLoc.isDedicated]
    exact ⟨ac, fun r _ => rfKept r, hi, lo, by rw [spMoves]; nofun, lk, mem, imem, params⟩
  case inr =>
    have rfMoves : (c.withSp s.params).rf = some i := by rw [Changes.withSp, hloc, RegLoc.rfIndex]
    refine ⟨ac, fun r hr => ?_, hi, lo, fun _ => sp hsp, lk, mem, imem, params⟩
    have hne : r ≠ i := fun heq => hr (heq ▸ rfMoves)
    rw [State.readRf_writeRf, if_neg hne, rfKept]

end Sys2Proof.Machine
end

section
/-! Memory Access Operations (spec/45_memory_access.md): the indexed load and store (R160, R161), and the stack
(R162, R163). -/

namespace Sys2Proof.Machine

/-! ## The meanings -/

section
variable (a : AcReg) (r1 r2 : RfReg) (s : State)

theorem exec_lwr_eq : exec (.lwr a r1 r2) s
    = afterAccess (s.memRead (s.indexedAddr r1 r2)) fun v => (s.writeAc a v).advance := rfl

theorem exec_swr_eq : exec (.swr a r1 r2) s
    = afterAccess (s.memWrite (s.indexedAddr r1 r2) (s.readAc a)) fun t => t.advance := rfl

theorem exec_push_eq : exec (.push a) s
    = afterAccess (s.memWrite s.pushAddr (s.readAc a)) fun t => (t.writeSp s.pushAddr).advance := rfl

theorem exec_pop_eq : exec (.pop a) s
    = afterAccess (s.memRead s.popAddr) fun v => ((s.writeAc a v).writeSp (s.popAddr + 1)).advance := rfl

end

/-! ## The statements -/

/-- Settles O23. An allowed load is one ac write of the word at the address. -/
theorem lwrLoadsTheIndexedWord : Obligations.LwrLoadsTheIndexedWord := by
  rintro a r1 r2 s _ rfl
  refine ⟨encodeR_eq_regWord 33#6 a r1 r2, fun w hacc hword => ?loads, faults_of_accessFault fun f hf => ?faults⟩
  case loads => exact writesAc_of_exec_eq ((exec_lwr_eq a r1 r2 s).trans (load_completes _ hacc hword)) rfl
  case faults => exact (exec_lwr_eq a r1 r2 s).trans (load_faults _ hf)

/-- Settles O24. An allowed store replaces the word at the address; with one memory a fetch reads it there too. -/
theorem swrStoresTheIndexedWord : Obligations.SwrStoresTheIndexedWord := by
  rintro a r1 r2 s _ rfl
  refine ⟨encodeR_eq_regWord 34#6 a r1 r2, rfl, fun hacc => ?stores, faults_of_accessFault fun f hf => ?faults⟩
  case stores =>
    have stored := Memory.readWord_writeWord_same s.mem (s.indexedAddr r1 r2) (s.readAc a)
    refine ⟨_, (exec_swr_eq a r1 r2 s).trans (store_completes _ _ hacc), stored, State.advance_pc _,
      (unchanged_setMem_writeWord s _ _).advance, fun hunified => ?_⟩
    rw [State.instrMem_of_unified]
    · exact stored
    · rw [State.advance_params, State.setMem_params, hunified]
  case faults => exact (exec_swr_eq a r1 r2 s).trans (store_faults _ _ hf)

/-- Settles O25. An allowed push is a store at the decremented `sp`, then the write of `sp`, which keeps memory. -/
theorem pushStoresAtTheDecrementedSp : Obligations.PushStoresAtTheDecrementedSp := by
  rintro a s _ rfl
  refine ⟨encodeR_eq_regWord 35#6 a 0 0, rfl, fun hacc => ?stores, faults_of_accessFault fun f hf => ?faults⟩
  case stores =>
    refine ⟨_, (exec_push_eq a s).trans (store_completes _ _ hacc), ?stored, ?decremented, ?goesOn,
      ((unchanged_setMem_writeWord s _ _).writeSp rfl rfl _).advance⟩
    case stored => rw [State.advance_mem, State.writeSp_mem, State.setMem_mem, Memory.readWord_writeWord_same]
    case decremented => rw [State.readSp_advance, State.readSp_writeSp, State.pushAddr]
    case goesOn => rw [State.advance_pc, State.writeSp_pc, State.setMem_pc]
  case faults => exact (exec_push_eq a s).trans (store_faults _ _ hf)

/-- Settles O26. An allowed pop is an ac write of the word at the old `sp`, then the write of `sp`, which keeps the
ac bank. -/
theorem popLoadsAtTheOldSp : Obligations.PopLoadsAtTheOldSp := by
  rintro a s _ rfl
  refine ⟨encodeR_eq_regWord 36#6 a 0 0, fun w hacc hword => ?loads, faults_of_accessFault fun f hf => ?faults⟩
  case loads =>
    have written : Unchanged { ac := some a } s (s.writeAc a w) := unchanged_writeAc s a w s.pc
    refine ⟨_, (exec_pop_eq a s).trans (load_completes _ hacc hword), ?loaded, ?incremented, ?goesOn,
      (written.writeSp rfl rfl _).advance⟩
    case loaded => rw [State.readAc_advance, State.readAc_writeSp, State.readAc_writeAc_same]
    case incremented => rw [State.readSp_advance, State.readSp_writeSp, State.popAddr]
    case goesOn => rw [State.advance_pc, State.writeSp_pc, State.writeAc_pc]
  case faults => exact (exec_pop_eq a s).trans (load_faults _ hf)

end Sys2Proof.Machine
end

section
/-! Control Operations (spec/46_control.md): the jump to a register (R172), and the branches on a zero test that go to a
register (R181, R182). -/

namespace Sys2Proof.Machine

/-! ## The meanings -/

section
variable (a : AcReg) (r1 : RfReg) (s : State)

theorem exec_ja_eq : exec (.ja r1) s = .next (s.setPc (s.readRf r1)) := rfl

theorem exec_beqzr_eq : exec (.beqzr a r1) s = branch (eqZero (s.readAc a)) (s.readRf r1) s := rfl

theorem exec_bnezr_eq : exec (.bnezr a r1) s = branch (neZero (s.readAc a)) (s.readRf r1) s := rfl

end

/-! ## The zero tests of R174 -/

theorem eqZero_iff {v : Word} : eqZero v = true ↔ v = 0#16 := beq_iff_eq

theorem neZero_iff {v : Word} : neZero v = true ↔ v ≠ 0#16 := bne_iff_ne

/-! ## Jumps and branches -/

/-- An instruction whose meaning is one move of `pc` changes nothing else. -/
theorem jumpsTo_of_exec_eq {i : Instr} {s : State} {target : Word} (hexec : exec i s = .next (s.setPc target)) :
    JumpsTo i s target :=
  ⟨s.setPc target, hexec, State.setPc_pc s target, unchanged_setPc s target⟩

/-- A branch whose test decides `P` goes to its target when `P` holds and to the next word otherwise (R174). -/
theorem jumpsTo_of_exec_eq_branch {i : Instr} {s : State} {taken : Bool} {target : Word} {P : Prop} [Decidable P]
    (hexec : exec i s = branch taken target s) (htest : taken = true ↔ P) :
    JumpsTo i s (if P then target else s.pc + 1) := by
  apply jumpsTo_of_exec_eq
  rw [hexec, branch_eq, if_congr htest rfl rfl, State.nextPc]

/-! ## The statements -/

/-- Settles O30. The meaning is one move of `pc`, which leaves `lk` and everything else. -/
theorem jaJumpsToTheRegister : Obligations.JaJumpsToTheRegister := by
  intro r1 s
  exact ⟨encodeR_eq_regWord 39#6 0 r1 0, jumpsTo_of_exec_eq (exec_ja_eq r1 s)⟩

/-- Settles O34. Each is a branch on a test that decides whether the ac register is zero. -/
theorem zeroTestRegisterBranchesGoToTheRegister : Obligations.ZeroTestRegisterBranchesGoToTheRegister := by
  intro a r1 s
  refine ⟨encodeR_eq_regWord 47#6 a r1 0, encodeR_eq_regWord 48#6 a r1 0, ?beqzr, ?bnezr⟩
  case beqzr => exact jumpsTo_of_exec_eq_branch (exec_beqzr_eq a r1 s) eqZero_iff
  case bnezr => exact jumpsTo_of_exec_eq_branch (exec_bnezr_eq a r1 s) neZero_iff

end Sys2Proof.Machine
end

section
/-! The decoder and the encoder undo each other (R66, R67), up to the unused bits of R72. -/

namespace Sys2Proof

theorem opcodeField_encode (i : Instr) : opcodeField (encode i) = i.opcode := by
  cases i with
  | nope => exact opcodeField_encodeN _
  | jr imm | jrl imm => exact opcodeField_encodeJ _ imm
  | addi a imm | subi a imm | andi a imm | ori a imm | xori a imm | nandi a imm | nori a imm | xnori a imm
  | lli a imm | lui a imm | lsi a imm | bgtz a imm | bltz a imm | beqz a imm | bnez a imm =>
    exact opcodeField_encodeI _ a imm
  | _ => exact opcodeField_encodeR _ _ _ _

/-- Settles O1. The opcode field selects the row of `i`, and each field of its format reads back as it was encoded. -/
theorem decodeEncodeRoundTrip : Obligations.DecodeEncodeRoundTrip := by
  intro i _
  have row := opcodeField_encode i
  unfold decode
  rw [row]
  cases i
  all_goals
    change Except.ok _ = _
    simp only [encode, acField_encodeR, rf1Field_encodeR, rf2Field_encodeR, acField_encodeS, rf1Field_encodeS,
      shamtField_encodeS, acField_encodeI, imm8Field_encodeI, imm10Field_encodeJ]

theorem decode_encode (i : Instr) : decode (encode i) = .ok i := decodeEncodeRoundTrip i rfl

theorem encode_injective {i j : Instr} (h : encode i = encode j) : i = j :=
  Except.ok.inj ((decode_encode i).symm.trans (h ▸ decode_encode j))

/-! ## Which bits a row names (R72) -/

/-- The opcode field fixes the row, and with it the used bits. -/
theorem usedBits_eq_of_decode {w w' : Word} {i j : Instr} (hi : decode w = .ok i) (hj : decode w' = .ok j)
    (hop : opcodeField w' = opcodeField w) : j.usedBits = i.usedBits := by
  unfold decode at hi hj
  rw [hop] at hj
  generalize (opcodeField w).toNat = row at hi hj
  split at hi <;> cases hi
  all_goals
    cases hj
    rfl

/-- Every row names the opcode bits. -/
theorem opcodeField_usedBits (i : Instr) : opcodeField i.usedBits = .allOnes 6 := by
  cases i
  all_goals
    rw [Instr.usedBits]
    decide

theorem opcodeField_and_usedBits (w : Word) (i : Instr) : opcodeField (w &&& i.usedBits) = opcodeField w := by
  have used := opcodeField_usedBits i
  unfold opcodeField at used ⊢
  rw [BitVec.extractLsb'_and, used, BitVec.and_allOnes]

/-- Settles O2. A word that agrees with `w` on the used bits has the opcode of `w`, so it decodes to some `j` of its
row; `j` and `i` encode to the same word. -/
theorem decodedWordsDifferOnlyInUnusedBits : Obligations.DecodedWordsDifferOnlyInUnusedBits := by
  intro w i hi
  refine ⟨encode_of_decode hi, fun w' agree => ?_⟩
  have hop : opcodeField w' = opcodeField w := by
    rw [← opcodeField_and_usedBits w' i, agree, opcodeField_and_usedBits]
  obtain ⟨j, hj⟩ : ∃ j, decode w' = .ok j := by
    rw [exists_decode_eq_ok_iff, hop]
    exact exists_decode_eq_ok_iff.1 ⟨i, hi⟩
  have sameWord : encode j = encode i := by
    rw [encode_of_decode hj, usedBits_eq_of_decode hi hj hop, agree, encode_of_decode hi]
  rw [hj, encode_injective sameWord]

/-- Settles O4. The nine words are closed terms, one of each format or of a row with unused bits set. -/
theorem writtenOutWordsDecode : Obligations.WrittenOutWordsDecode := by
  unfold Obligations.WrittenOutWordsDecode
  decide

end Sys2Proof
end

section
/-! SUPPORT. What an instruction can do, said once for all 49: which update of the state it is, or at which address its
one data access stops (R16, R20 to R30, R202). Every statement on what changes and what does not follows from it. -/

namespace Sys2Proof.Machine

/-- The opcodes R21 lists as writing `ac[a]`. -/
def acWriterRows : List ℕ :=
  [1, 2, 3, 4, 5, 6, 7, 8, 9, 10, 11, 12, 16, 18, 19, 21, 22, 23, 24, 25, 26, 27, 28, 29, 30, 31, 32, 33, 36]

/-- The instructions with a data access (spec/45_memory_access.md). -/
def AccessesData (i : Instr) : Prop :=
  (∃ a r1 r2, i = .lwr a r1 r2) ∨ (∃ a r1 r2, i = .swr a r1 r2) ∨ (∃ a, i = .push a) ∨ ∃ a, i = .pop a

/-- `f` is the fault of a data access at `ea`, in the order of R204. -/
def State.FaultsAt (s : State) (ea : Word) (f : Fault) : Prop :=
  s.accessFault ea = some f ∨ s.accessible ea ∧ s.mem.readWord ea = none ∧ f = .uninitRead s.pc ea

/-- What executing an instruction in the state `s` can answer. No case is a refusal. -/
inductive Effect (s : State) : Instr → Out → Prop
  | advances : Effect s .nope (.next s.advance)
  | writesAc {i : Instr} (a : AcReg) (v : Word) (field : acField (encode i) = a)
      (row : i.opcode.toNat ∈ acWriterRows) : Effect s i (.next (s.writeAc a v).advance)
  | writesRf (a : AcReg) (r1 : RfReg) : Effect s (.mfac a r1) (.next (s.writeRf r1 (s.readAc a)).advance)
  | writesLo (a : AcReg) : Effect s (.mtl a) (.next (s.setLo (s.readAc a)).advance)
  | writesHi (a : AcReg) : Effect s (.mth a) (.next (s.setHi (s.readAc a)).advance)
  | multiplies (r2 : RfReg) (hi lo : Word) : Effect s (.tmul r2) (.next ((s.setHi hi).setLo lo).advance)
  | divides (r2 : RfReg) (hi lo : Word) : Effect s (.tdiv r2) (.next ((s.setHi hi).setLo lo).advance)
  | stores (a : AcReg) (r1 r2 : RfReg) :
      Effect s (.swr a r1 r2) (.next (s.setMem (s.mem.writeWord (s.indexedAddr r1 r2) (s.readAc a))).advance)
  | pushes (a : AcReg) : Effect s (.push a)
      (.next ((s.setMem (s.mem.writeWord s.pushAddr (s.readAc a))).writeSp s.pushAddr).advance)
  | pops (a : AcReg) (v : Word) : Effect s (.pop a) (.next ((s.writeAc a v).writeSp (s.popAddr + 1)).advance)
  | jumps {i : Instr} (target : Word) (row : 37 ≤ i.opcode.toNat) : Effect s i (.next (s.setPc target))
  | links {i : Instr} (target : Word) (linking : (∃ imm, i = .jrl imm) ∨ ∃ r1, i = .jal r1) :
      Effect s i (.next ((s.writeLk s.nextPc).setPc target))
  | faults {i : Instr} {f : Fault} (ea : Word) (fault : s.FaultsAt ea f) (accessing : AccessesData i) :
      Effect s i (.fault f)

/-- An instruction that loads from `ea` does `k` with the word there, or stops. -/
theorem effect_load {s : State} {i : Instr} {ea : Word} {k : Word → State} (accessing : AccessesData i)
    (loaded : ∀ v, Effect s i (.next (k v))) : Effect s i (afterAccess (s.memRead ea) k) := by
  cases hread : s.memRead ea with
  | ok v => exact loaded v
  | error f => exact .faults ea (State.memRead_eq_error.1 hread) accessing

/-- An instruction that stores `v` at `ea` does `k` after the store, or stops. -/
theorem effect_store {s : State} {i : Instr} {ea v : Word} {k : State → State} (accessing : AccessesData i)
    (stored : Effect s i (.next (k (s.setMem (s.mem.writeWord ea v))))) :
    Effect s i (afterAccess (s.memWrite ea v) k) := by
  cases hwrite : s.memWrite ea v with
  | ok t =>
    obtain ⟨-, rfl⟩ := State.memWrite_eq_ok.1 hwrite
    exact stored
  | error f => exact .faults ea (.inl (State.memWrite_eq_error.1 hwrite)) accessing

/-- A branch is a jump, to its target or to the next word. -/
theorem effect_branch {s : State} {i : Instr} (taken : Bool) (target : Word) (row : 37 ≤ i.opcode.toNat) :
    Effect s i (branch taken target s) := by
  rw [branch_eq]
  exact .jumps _ row

theorem exec_effect (i : Instr) (s : State) : Effect s i (exec i s) := by
  cases i with
  | nope => exact .advances
  | add a r1 r2 | sub a r1 r2 | and a r1 r2 | or a r1 r2 | xor a r1 r2 | nand a r1 r2 | nor a r1 r2 | xnor a r1 r2
  | slt a r1 r2 => exact .writesAc a _ (acField_encodeR _ a r1 r2) (List.mem_of_elem_eq_true rfl)
  | not a r1 | mtac a r1 => exact .writesAc a _ (acField_encodeR _ a r1 0) (List.mem_of_elem_eq_true rfl)
  | sll a r1 n | srl a r1 n | sra a r1 n =>
    exact .writesAc a _ (acField_encodeS _ a r1 n) (List.mem_of_elem_eq_true rfl)
  | mfl a | mfh a => exact .writesAc a _ (acField_encodeR _ a 0 0) (List.mem_of_elem_eq_true rfl)
  | addi a imm | subi a imm | andi a imm | ori a imm | xori a imm | nandi a imm | nori a imm | xnori a imm
  | lli a imm | lui a imm | lsi a imm =>
    exact .writesAc a _ (acField_encodeI _ a imm) (List.mem_of_elem_eq_true rfl)
  | tmul r2 => exact .multiplies r2 _ _
  | tdiv r2 => exact .divides r2 _ _
  | mtl a => exact .writesLo a
  | mth a => exact .writesHi a
  | mfac a r1 => exact .writesRf a r1
  | lwr a r1 r2 =>
    exact effect_load (.inl ⟨a, r1, r2, rfl⟩) fun v =>
      .writesAc a v (acField_encodeR _ a r1 r2) (List.mem_of_elem_eq_true rfl)
  | swr a r1 r2 => exact effect_store (.inr (.inl ⟨a, r1, r2, rfl⟩)) (.stores a r1 r2)
  | push a => exact effect_store (.inr (.inr (.inl ⟨a, rfl⟩))) (.pushes a)
  | pop a => exact effect_load (.inr (.inr (.inr ⟨a, rfl⟩))) fun v => .pops a v
  | jr imm | ja r1 => exact .jumps _ (Nat.le_of_ble_eq_true rfl)
  | jrl imm => exact .links _ (.inl ⟨imm, rfl⟩)
  | jal r1 => exact .links _ (.inr ⟨r1, rfl⟩)
  | bgtz a x | bltz a x | beqz a x | bnez a x | bgtzr a x | bltzr a x | beqzr a x | bnezr a x =>
    exact effect_branch _ _ (Nat.le_of_ble_eq_true rfl)

theorem effect_of_exec {i : Instr} {s : State} {o : Out} (h : exec i s = o) : Effect s i o := h ▸ exec_effect i s

end Sys2Proof.Machine
end

section
/-! What the instructions write and where they stop (spec/10_state.md, spec/20_memory.md section 1,
spec/60_exceptions.md section 1): each statement reads off the cases of `Effect`. -/

namespace Sys2Proof.Machine

/-! ## Stops -/

/-- Settles O36. Every case of `Effect` but the fault goes on, and only the four data accesses have that case. -/
theorem onlyDataAccessesCanStop : Obligations.OnlyDataAccessesCanStop := by
  intro i s
  have effect := exec_effect i s
  generalize exec i s = o at effect
  cases effect with
  | faults ea fault accessing => exact ⟨.inr ⟨_, rfl, accessing⟩, nofun⟩
  | _ => exact ⟨.inl ⟨_, rfl⟩, nofun⟩

/-- Settles O37. The address of the access is the one the fault is for. -/
theorem faultsNameTheInstructionAndFollowThePriority : Obligations.FaultsNameTheInstructionAndFollowThePriority := by
  intro i s f hexec
  cases effect_of_exec hexec with
  | faults ea fault _ =>
    refine ⟨ea, ?_⟩
    rcases fault with hfault | hunwritten
    · rcases s.accessFault_eq ea with ⟨hf, -⟩ | ⟨hf, hout⟩ | ⟨hf, hin, hguarded⟩
      all_goals rw [hf] at hfault; cases hfault
      · exact .inl ⟨hout, rfl⟩
      · exact .inr (.inl ⟨hin, hguarded, rfl⟩)
    · exact .inr (.inr hunwritten)

/-! ## The registers -/

/-- Settles O42. `lwr` and the register forms write the ac register of their ac field, and so does `pop`. -/
theorem onlyTheNamedInstructionsWriteTheAcBank : Obligations.OnlyTheNamedInstructionsWriteTheAcBank := by
  intro i s t b hexec changed
  cases effect_of_exec hexec with
  | writesAc a v field row =>
    rw [State.readAc_advance, State.readAc_writeAc] at changed
    have hb : b = a := of_not_not fun hne => changed (if_neg hne)
    exact ⟨field.trans hb.symm, row⟩
  | pops a v =>
    rw [State.readAc_advance, State.readAc_writeSp, State.readAc_writeAc] at changed
    have hb : b = a := of_not_not fun hne => changed (if_neg hne)
    exact ⟨(acField_encodeR _ a 0 0).trans hb.symm, List.mem_of_elem_eq_true rfl⟩
  | pushes a => exact absurd (by rw [State.readAc_advance, State.readAc_writeSp, State.readAc_setMem]) changed
  | links target _ => exact absurd (by rw [State.readAc_setPc, State.readAc_writeLk]) changed
  | _ => exact absurd rfl changed

theorem eq_of_readRf_writeRf_ne {s : State} {q r : RfReg} {v : Word} (h : (s.writeRf q v).readRf r ≠ s.readRf r) :
    q = r := by
  rw [State.readRf_writeRf] at h
  exact of_not_not fun hne => h (if_neg fun hr => hne hr.symm)

theorem spLoc_of_readRf_writeSp_ne {s : State} {r : RfReg} {v : Word} (h : (s.writeSp v).readRf r ≠ s.readRf r) :
    s.params.spLoc = .rf r := by
  rcases s.writeSp_eq v with ⟨written, -⟩ | ⟨q, written, hloc⟩
  all_goals rw [written] at h
  · exact absurd (State.readRf_setSpReg s v r) h
  · rw [hloc, eq_of_readRf_writeRf_ne h]

theorem lkLoc_of_readRf_writeLk_ne {s : State} {r : RfReg} {v : Word} (h : (s.writeLk v).readRf r ≠ s.readRf r) :
    s.params.lkLoc = .rf r := by
  rcases s.writeLk_eq v with ⟨written, -⟩ | ⟨q, written, hloc⟩
  all_goals rw [written] at h
  · exact absurd (State.readRf_setLkReg s v r) h
  · rw [hloc, eq_of_readRf_writeRf_ne h]

/-- Settles O43. Besides `mfac`, an rf register is written where it holds `sp` or `lk`. -/
theorem onlyMfacWritesTheRfBank : Obligations.OnlyMfacWritesTheRfBank := by
  intro i s t r hexec changed
  cases effect_of_exec hexec with
  | writesRf a q => exact .inl ⟨a, eq_of_readRf_writeRf_ne changed ▸ rfl⟩
  | pushes a =>
    have hloc := spLoc_of_readRf_writeSp_ne (s := s.setMem (s.mem.writeWord s.pushAddr (s.readAc a))) changed
    exact .inr (.inl ⟨hloc, .inl ⟨a, rfl⟩⟩)
  | pops a v => exact .inr (.inl ⟨spLoc_of_readRf_writeSp_ne (s := s.writeAc a v) changed, .inr ⟨a, rfl⟩⟩)
  | links target linking => exact .inr (.inr ⟨lkLoc_of_readRf_writeLk_ne changed, linking⟩)
  | _ => exact absurd rfl changed

theorem dedicated_of_writeSp_sp_ne {s : State} {v : Word} (h : (s.writeSp v).sp ≠ s.sp) :
    s.params.spLoc = .dedicated := by
  rcases s.writeSp_eq v with ⟨-, hloc⟩ | ⟨q, written, -⟩
  · exact hloc
  · exact absurd (written ▸ State.writeRf_sp s q v) h

theorem dedicated_of_writeLk_lk_ne {s : State} {v : Word} (h : (s.writeLk v).lk ≠ s.lk) :
    s.params.lkLoc = .dedicated := by
  rcases s.writeLk_eq v with ⟨-, hloc⟩ | ⟨q, written, -⟩
  · exact hloc
  · exact absurd (written ▸ State.writeRf_lk s q v) h

theorem hi_writers {i : Instr} {s t : State} (hexec : exec i s = .next t) (changed : t.hi ≠ s.hi) :
    (∃ a, i = .mth a) ∨ (∃ r, i = .tmul r) ∨ ∃ r, i = .tdiv r := by
  cases effect_of_exec hexec with
  | writesHi a => exact .inl ⟨a, rfl⟩
  | multiplies r2 hi lo => exact .inr (.inl ⟨r2, rfl⟩)
  | divides r2 hi lo => exact .inr (.inr ⟨r2, rfl⟩)
  | pushes a | pops a v => exact absurd (State.writeSp_hi _ _) changed
  | links target _ => exact absurd (State.writeLk_hi _ _) changed
  | _ => exact absurd rfl changed

theorem lo_writers {i : Instr} {s t : State} (hexec : exec i s = .next t) (changed : t.lo ≠ s.lo) :
    (∃ a, i = .mtl a) ∨ (∃ r, i = .tmul r) ∨ ∃ r, i = .tdiv r := by
  cases effect_of_exec hexec with
  | writesLo a => exact .inl ⟨a, rfl⟩
  | multiplies r2 hi lo => exact .inr (.inl ⟨r2, rfl⟩)
  | divides r2 hi lo => exact .inr (.inr ⟨r2, rfl⟩)
  | pushes a | pops a v => exact absurd (State.writeSp_lo _ _) changed
  | links target _ => exact absurd (State.writeLk_lo _ _) changed
  | _ => exact absurd rfl changed

theorem sp_writers {i : Instr} {s t : State} (hexec : exec i s = .next t) (changed : t.sp ≠ s.sp) :
    s.params.spLoc = .dedicated ∧ ((∃ a, i = .push a) ∨ ∃ a, i = .pop a) := by
  cases effect_of_exec hexec with
  | pushes a =>
    have hloc := dedicated_of_writeSp_sp_ne (s := s.setMem (s.mem.writeWord s.pushAddr (s.readAc a))) changed
    exact ⟨hloc, .inl ⟨a, rfl⟩⟩
  | pops a v => exact ⟨dedicated_of_writeSp_sp_ne (s := s.writeAc a v) changed, .inr ⟨a, rfl⟩⟩
  | links target _ => exact absurd (State.writeLk_sp _ _) changed
  | _ => exact absurd rfl changed

theorem lk_writers {i : Instr} {s t : State} (hexec : exec i s = .next t) (changed : t.lk ≠ s.lk) :
    s.params.lkLoc = .dedicated ∧ ((∃ imm, i = .jrl imm) ∨ ∃ r1, i = .jal r1) := by
  cases effect_of_exec hexec with
  | links target linking => exact ⟨dedicated_of_writeLk_lk_ne changed, linking⟩
  | pushes a | pops a v => exact absurd (State.writeSp_lk _ _) changed
  | _ => exact absurd rfl changed

/-- Settles O44. One case split of `Effect` for each of the four registers. -/
theorem hiLoSpAndLkHaveFewWriters : Obligations.HiLoSpAndLkHaveFewWriters :=
  fun _ _ _ hexec => ⟨hi_writers hexec, lo_writers hexec, sp_writers hexec, lk_writers hexec⟩

/-- Settles O46. Every case but a jump advances `pc`; the jumps, with and without a link, are the rows from 37 on. -/
theorem onlyControlInstructionsLeaveTheSequence : Obligations.OnlyControlInstructionsLeaveTheSequence := by
  intro i s t hexec leaves
  cases effect_of_exec hexec with
  | jumps target row => exact row
  | links target linking =>
    obtain ⟨imm, rfl⟩ | ⟨r1, rfl⟩ := linking
    all_goals exact Nat.le_of_ble_eq_true rfl
  | pushes a | pops a v => exact absurd (by rw [State.advance_pc, State.writeSp_pc]; rfl) leaves
  | _ => exact absurd rfl leaves

/-! ## Memory and the parameters -/

theorem exec_params {i : Instr} {s t : State} (hexec : exec i s = .next t) : t.params = s.params := by
  cases effect_of_exec hexec with
  | pushes a | pops a v => exact State.writeSp_params _ _
  | links target _ => exact State.writeLk_params _ _
  | _ => rfl

theorem exec_imem {i : Instr} {s t : State} (hexec : exec i s = .next t) : t.imem = s.imem := by
  cases effect_of_exec hexec with
  | pushes a | pops a v => exact State.writeSp_imem _ _
  | links target _ => exact State.writeLk_imem _ _
  | _ => rfl

/-- An instruction leaves data memory alone, or stores one word to it. -/
theorem exec_mem {i : Instr} {s t : State} (hexec : exec i s = .next t) :
    t.mem = s.mem
      ∨ (∃ a r1 r2, i = .swr a r1 r2 ∧ t.mem = s.mem.writeWord (s.indexedAddr r1 r2) (s.readAc a))
      ∨ ∃ a, i = .push a ∧ t.mem = s.mem.writeWord s.pushAddr (s.readAc a) := by
  cases effect_of_exec hexec with
  | stores a r1 r2 => exact .inr (.inl ⟨a, r1, r2, rfl, rfl⟩)
  | pushes a => exact .inr (.inr ⟨a, rfl, State.writeSp_mem _ _⟩)
  | pops a v => exact .inl (State.writeSp_mem _ _)
  | links target _ => exact .inl (State.writeLk_mem _ _)
  | _ => exact .inl rfl

theorem cell_of_read_writeWord_ne {m : Memory} {a v : Word} {k : ℕ} (h : (m.writeWord a v).read k ≠ m.read k) :
    k = lowCell a ∨ k = highCell a := by
  by_contra hne
  obtain ⟨hlow, hhigh⟩ := not_or.1 hne
  exact h (Memory.read_writeWord_outside m a v hlow hhigh)

/-- Settles O45. The two stores write one word, and a word write reaches the two cells of that word. -/
theorem onlySwrAndPushWriteMemory : Obligations.OnlySwrAndPushWriteMemory := by
  intro i s t hexec
  refine ⟨fun k changed => ?_, exec_imem hexec⟩
  rcases exec_mem hexec with hmem | ⟨a, r1, r2, rfl, hmem⟩ | ⟨a, rfl, hmem⟩
  all_goals rw [hmem] at changed
  · exact absurd rfl changed
  · exact .inl ⟨a, r1, r2, rfl, cell_of_read_writeWord_ne changed⟩
  · exact .inr ⟨a, rfl, cell_of_read_writeWord_ne changed⟩

/-- Settles O41. No case of `Effect` touches them. -/
theorem stepKeepsTheParameters : Obligations.StepKeepsTheParameters := by
  intro s t hstep
  obtain ⟨w, i, -, -, hexec⟩ := step_eq_next.1 hstep
  exact exec_params hexec

/-- Settles O47. With two memories a fetch reads `imem`, which no instruction writes. -/
theorem separateInstructionMemoryIsNeverWritten : Obligations.SeparateInstructionMemoryIsNeverWritten := by
  intro s t hseparate hstep
  obtain ⟨w, i, -, -, hexec⟩ := step_eq_next.1 hstep
  rw [State.instrMem, State.instrMem, exec_params hexec, exec_imem hexec, hseparate]
  rfl

/-! ## The invariant -/

/-- An instruction keeps the canonical form: the one word it may store is stored whole. -/
theorem exec_inv {i : Instr} {s t : State} (inv : s.Inv) (hexec : exec i s = .next t) : t.Inv := by
  obtain ⟨hmem, himem, hparams⟩ := inv
  refine ⟨?_, exec_imem hexec ▸ himem, exec_params hexec ▸ hparams⟩
  rcases exec_mem hexec with kept | ⟨a, r1, r2, -, stored⟩ | ⟨a, -, stored⟩
  · exact kept ▸ hmem
  · exact stored ▸ Memory.wf_writeWord _ _ hmem
  · exact stored ▸ Memory.wf_writeWord _ _ hmem

/-- Settles O38. A step that goes on is the execution of one instruction. -/
theorem stepKeepsTheInvariant : Obligations.StepKeepsTheInvariant := by
  intro s t inv hstep
  obtain ⟨w, i, -, -, hexec⟩ := step_eq_next.1 hstep
  exact exec_inv inv hexec

/-- Settles O39. Both memories are empty, and the two maps are the same one range, in order. -/
theorem resetSatisfiesTheInvariant : Obligations.ResetSatisfiesTheInvariant :=
  ⟨Memory.wf_nil, Memory.wf_nil, rfl⟩

end Sys2Proof.Machine
end

section
/-! SUPPORT. What no instruction reads: `lk` as a register of its own (R28), and the parameters `RESET_PC` and
`IMAGE_BYTE_ORDER` (D21, D24). Executing an instruction with other values there answers the same. -/

namespace Sys2Proof.Machine

/-- The state with other values in the parts that no instruction reads. -/
def State.withUnread (s : State) (lk : Word) (order : ByteOrder) (resetPc : Word) : State :=
  { s with lk, params := { s.params with imageByteOrder := order, resetPc } }

/-- The answers of executing in `s` and in `s.withUnread lk order resetPc`: the same fault, or next states that differ
in no more than the unread parts. The dedicated `lk` is kept by both or written alike by both. -/
inductive Alike (s : State) (lk : Word) (order : ByteOrder) (resetPc : Word) : Out → Out → Prop
  | kept {t : State} (same : t.lk = s.lk) : Alike s lk order resetPc (.next t) (.next (t.withUnread lk order resetPc))
  | linked (t : State) : Alike s lk order resetPc (.next t) (.next (t.withUnread t.lk order resetPc))
  | faults (f : Fault) : Alike s lk order resetPc (.fault f) (.fault f)

section
variable {s : State} {lk : Word} {order : ByteOrder} {resetPc : Word}

theorem alike_branch (taken : Bool) (target : Word) : Alike s lk order resetPc (branch taken target s)
    (branch taken target (s.withUnread lk order resetPc)) := by
  rw [branch_eq, branch_eq]
  exact .kept (t := s.setPc _) rfl

/-- The same access, and then updates that neither read nor write the unread parts. -/
theorem alike_afterAccess {α : Type} (x : Except Fault α) {k k' : α → State}
    (updates : ∀ v, k' v = (k v).withUnread lk order resetPc) (same : ∀ v, (k v).lk = s.lk) :
    Alike s lk order resetPc (afterAccess x k) (afterAccess x k') := by
  cases x with
  | error f => exact .faults f
  | ok v =>
    rw [afterAccess, afterAccess, updates]
    exact .kept (same v)

/-- The same store, and then updates that neither read nor write the unread parts. -/
theorem alike_store (a v : Word) {k k' : State → State}
    (updates : ∀ t, k' (t.withUnread lk order resetPc) = (k t).withUnread lk order resetPc)
    (same : ∀ t, (k t).lk = t.lk) :
    Alike s lk order resetPc (afterAccess (s.memWrite a v) k)
      (afterAccess ((s.withUnread lk order resetPc).memWrite a v) k') := by
  have fault : (s.withUnread lk order resetPc).accessFault a = s.accessFault a := rfl
  rw [State.memWrite, State.memWrite, fault]
  cases s.accessFault a with
  | some f => exact .faults f
  | none =>
    have stored : (s.withUnread lk order resetPc).setMem (s.mem.writeWord a v)
        = (s.setMem (s.mem.writeWord a v)).withUnread lk order resetPc := rfl
    exact alike_afterAccess (.ok ()) (k := fun _ => k (s.setMem (s.mem.writeWord a v)))
      (k' := fun _ => k' ((s.withUnread lk order resetPc).setMem (s.mem.writeWord a v)))
      (fun _ => stored ▸ updates _) fun _ => same _

theorem writeSp_withUnread (v : Word) :
    (s.withUnread lk order resetPc).writeSp v = (s.writeSp v).withUnread lk order resetPc := by
  have loc : (s.withUnread lk order resetPc).params.spLoc = s.params.spLoc := rfl
  rw [State.writeSp, State.writeSp, loc]
  cases s.params.spLoc <;> rfl

/-- A link writes `lk` alike in both, or an rf register and leaves `lk`. -/
theorem alike_link (link target : Word) : Alike s lk order resetPc (.next ((s.writeLk link).setPc target))
    (.next (((s.withUnread lk order resetPc).writeLk link).setPc target)) := by
  have loc : (s.withUnread lk order resetPc).params.lkLoc = s.params.lkLoc := rfl
  rw [State.writeLk, State.writeLk, loc]
  cases s.params.lkLoc with
  | dedicated => exact .linked ((s.setLkReg link).setPc target)
  | rf r => exact .kept (t := (s.writeRf r link).setPc target) rfl

theorem exec_alike (i : Instr) :
    Alike s lk order resetPc (exec i s) (exec i (s.withUnread lk order resetPc)) := by
  cases i with
  | lwr a r1 r2 => exact alike_afterAccess (s.memRead (s.indexedAddr r1 r2)) (fun _ => rfl) fun _ => rfl
  | swr a r1 r2 => exact alike_store (s.indexedAddr r1 r2) (s.readAc a) (fun _ => rfl) fun _ => rfl
  | push a =>
    refine alike_store s.pushAddr (s.readAc a) (fun t => ?_) fun t => State.writeSp_lk t s.pushAddr
    exact congrArg State.advance (writeSp_withUnread (s := t) s.pushAddr)
  | pop a =>
    refine alike_afterAccess (s.memRead s.popAddr) (fun v => ?_) fun v => State.writeSp_lk (s.writeAc a v) _
    exact congrArg State.advance (writeSp_withUnread (s := s.writeAc a v) (s.popAddr + 1))
  | jrl imm => exact alike_link s.nextPc (s.pageTarget imm)
  | jal r1 => exact alike_link s.nextPc (s.readRf r1)
  | bgtz a imm => exact alike_branch (gtZero (s.readAc a)) (s.branchTarget imm)
  | bltz a imm => exact alike_branch (ltZero (s.readAc a)) (s.branchTarget imm)
  | beqz a imm => exact alike_branch (eqZero (s.readAc a)) (s.branchTarget imm)
  | bnez a imm => exact alike_branch (neZero (s.readAc a)) (s.branchTarget imm)
  | bgtzr a r1 => exact alike_branch (gtZero (s.readAc a)) (s.readRf r1)
  | bltzr a r1 => exact alike_branch (ltZero (s.readAc a)) (s.readRf r1)
  | beqzr a r1 => exact alike_branch (eqZero (s.readAc a)) (s.readRf r1)
  | bnezr a r1 => exact alike_branch (neZero (s.readAc a)) (s.readRf r1)
  | _ => exact .kept rfl

/-- A step fetches the same word in both states, as `pc`, the memories and the instruction map are the same. -/
theorem step_alike : Alike s lk order resetPc (step s) (step (s.withUnread lk order resetPc)) := by
  have fetched : (s.withUnread lk order resetPc).fetch = s.fetch := rfl
  rw [step, step, fetched]
  cases s.fetch with
  | error f => exact .faults f
  | ok w =>
    cases hd : decode w with
    | error e => simpa only [hd] using .faults (.illegalOpcode s.pc w)
    | ok i => simpa only [hd] using exec_alike i

end

end Sys2Proof.Machine
end

section
/-! Noninterference: the dedicated `lk` (R28), and the two parameters of the host (D21, D24). -/

namespace Sys2Proof.Machine

/-- Settles O49. Only `lk` is replaced, so the unread parameters of both next states are those of `s`, which no step
changes. -/
theorem dedicatedLkNeverInfluencesAnything : Obligations.DedicatedLkNeverInfluencesAnything := by
  intro s v _
  have alike : Alike s v s.params.imageByteOrder s.params.resetPc (step s) (step (s.setLkReg v)) := step_alike
  constructor
  · intro t hstep
    have onlyLk (lk : Word) : (t.withUnread lk s.params.imageByteOrder s.params.resetPc).setLkReg t.lk = t := by
      rw [← stepKeepsTheParameters s t hstep]
      rfl
    rw [hstep] at alike
    generalize step (s.setLkReg v) = o at alike
    cases alike with
    | kept _ => exact ⟨_, rfl, onlyLk v⟩
    | linked _ => exact ⟨_, rfl, onlyLk t.lk⟩
  · intro f hstep
    rw [hstep] at alike
    generalize step (s.setLkReg v) = o at alike
    cases alike
    rfl

/-- Settles O59. Here `lk` is the same in both states, so the next states differ in the two parameters alone. -/
theorem imageByteOrderAndResetPcInfluenceNoStep : Obligations.ImageByteOrderAndResetPcInfluenceNoStep := by
  intro s order resetPc
  have alike : Alike s s.lk order resetPc (step s)
      (step { s with params := { s.params with imageByteOrder := order, resetPc } }) := step_alike
  generalize step { s with params := { s.params with imageByteOrder := order, resetPc } } = o at alike
  constructor
  · intro t hstep
    rw [hstep] at alike
    cases alike with
    | kept same => rw [← same]; rfl
    | linked _ => rfl
  · intro f hstep
    rw [hstep] at alike
    cases alike
    rfl

end Sys2Proof.Machine
end

section
/-! One step and the start state (spec/70_reset_and_hazards.md sections 1 and 4, spec/60_exceptions.md section 1). -/

namespace Sys2Proof.Machine

/-! ## What a step runs, and where it stops before an instruction does -/

theorem step_eq_exec {s : State} {w : Word} {i : Instr} (hfetch : s.fetch = .ok w) (hdecode : decode w = .ok i) :
    step s = exec i s := by
  simp only [step, hfetch, hdecode]

theorem step_eq_illegalOpcode {s : State} {w : Word} (hfetch : s.fetch = .ok w) (hop : 49 ≤ (opcodeField w).toNat) :
    step s = .fault (.illegalOpcode s.pc w) := by
  simp only [step, hfetch, decode_eq_illegalOpcode_iff.2 hop]

theorem step_of_fetch_error {s : State} {f : Fault} (hfetch : s.fetch = .error f) : step s = .fault f := by
  simp only [step, hfetch]

/-- Settles O5. The two cells are the word the step fetches. -/
theorem stepRunsTheDecodedInstruction : Obligations.StepRunsTheDecodedInstruction := by
  intro s lo hi i hmap hlo hhi hdecode
  have hword : s.instrMem.readWord s.pc = some (wordOfBytes lo hi) :=
    Memory.readWord_eq_some.2 (by rw [loByte_wordOfBytes, hiByte_wordOfBytes]; exact ⟨hlo, hhi⟩)
  exact step_eq_exec (State.fetch_eq_ok.2 ⟨hmap, hword⟩) hdecode

theorem tableWord_toNat (w : Word) : tableWord 16 w.toNat = w := by
  rw [tableWord, Nat.mod_eq_of_lt w.isLt, BitVec.ofNat_toNat, BitVec.setWidth_eq]

/-- Settles O6. The load writes the word of instruction memory at `pc` and moves neither `pc` nor the map. -/
theorem loadedWordRunsAsTheNextInstruction : Obligations.LoadedWordRunsAsTheNextInstruction := by
  intro s w i hmap hdecode
  rw [State.withFetchWord, tableWord_toNat]
  refine step_eq_exec (State.fetch_eq_ok.2 ⟨?_, ?_⟩) hdecode
  · rwa [State.loadInstr_params, State.loadInstr_pc]
  · rw [State.loadInstr_instrMem, State.loadInstr_pc, Memory.readWord_writeWord_same]

/-- Settles O7. The three stops are the two faults of a fetch and the rejection of the fetched word. -/
theorem fetchAndDecodeFaultsStopTheStep : Obligations.FetchAndDecodeFaultsStopTheStep := by
  intro s
  refine ⟨fun houtside => ?range, fun hmap hnone => ?unwritten, fun w hmap hword hop => ?illegal⟩
  case range => exact step_of_fetch_error (by simp only [State.fetch, houtside, Bool.false_eq_true, if_false])
  case unwritten => exact step_of_fetch_error (by simp only [State.fetch, hmap, if_true, hnone])
  case illegal => exact step_eq_illegalOpcode (State.fetch_eq_ok.2 ⟨hmap, hword⟩) hop

/-- Settles O48. With one memory the word `swr` stores at `pc + 1` is the word the fetch from there reads. -/
theorem unifiedStoreIsSeenByTheNextFetch : Obligations.UnifiedStoreIsSeenByTheNextFetch := by
  intro a r1 r2 s t hunified hmap haddr hexec
  rw [exec_swr_eq, afterAccess_eq_next] at hexec
  obtain ⟨u, hwrite, rfl⟩ := hexec
  obtain ⟨-, rfl⟩ := State.memWrite_eq_ok.1 hwrite
  rw [haddr]
  refine State.fetch_eq_ok.2 ⟨hmap, ?_⟩
  rw [State.instrMem_of_unified (by exact hunified)]
  exact Memory.readWord_writeWord_same s.mem (s.pc + 1) (s.readAc a)

/-! ## The start state -/

theorem Memory.readWord_nil (a : Word) : Memory.readWord [] a = none := rfl

theorem initial_instrMem (p : Params) : (State.initial p).instrMem = [] := by
  rw [State.instrMem]
  split <;> rfl

theorem initial_unwritten (p : Params) (a : Word) :
    (State.initial p).mem.readWord a = none ∧ (State.initial p).instrMem.readWord a = none :=
  ⟨Memory.readWord_nil a, initial_instrMem p ▸ Memory.readWord_nil a⟩

/-- Settles O57. -/
theorem startStateFollowsItsParameters : Obligations.StartStateFollowsItsParameters :=
  ⟨fun p => ⟨rfl, rfl, initial_unwritten p⟩, rfl⟩

/-- Settles O40. Reset is the start state of `initialParams`. -/
theorem resetLeavesMemoryWithoutValues : Obligations.ResetLeavesMemoryWithoutValues :=
  ⟨initial_unwritten initialParams, rfl⟩

end Sys2Proof.Machine
end

section
/-! Register and memory instructions in two's complement, in sequence and at their corner cases
(spec/30_encoding.md section 5, spec/41 to 43, spec/45). -/

namespace Sys2Proof.Machine

/-! ## Frames in sequence -/

theorem Unchanged.trans {c : Changes} {s t u : State} (hst : Unchanged c s t) (htu : Unchanged c t u) :
    Unchanged c s u := by
  obtain ⟨ac, rf, hi, lo, sp, lk, mem, imem, params⟩ := hst
  obtain ⟨ac', rf', hi', lo', sp', lk', mem', imem', params'⟩ := htu
  exact ⟨fun a h => (ac' a h).trans (ac a h), fun r h => (rf' r h).trans (rf r h), fun h => (hi' h).trans (hi h),
    fun h => (lo' h).trans (lo h), fun h => (sp' h).trans (sp h), fun h => (lk' h).trans (lk h),
    fun k h => (mem' k h).trans (mem k h), fun k => (imem' k).trans (imem k), params'.trans params⟩

theorem Unchanged.readAc_eq {c : Changes} {s t : State} (h : Unchanged c s t) {a : AcReg} (ha : c.ac ≠ some a) :
    t.readAc a = s.readAc a := by
  obtain ⟨ac, -⟩ := h
  exact ac a ha

theorem Unchanged.readRf_eq {c : Changes} {s t : State} (h : Unchanged c s t) {r : RfReg} (hr : c.rf ≠ some r) :
    t.readRf r = s.readRf r := by
  obtain ⟨-, rf, -⟩ := h
  exact rf r hr

theorem Unchanged.params_eq {c : Changes} {s t : State} (h : Unchanged c s t) : t.params = s.params := by
  obtain ⟨-, -, -, -, -, -, -, -, params⟩ := h
  exact params

theorem State.accessible_congr {s t : State} {a : Word} (h : t.params = s.params) :
    t.accessible a ↔ s.accessible a := by
  rw [State.accessible, State.accessible, h]

/-! ## `slt` and `sra` -/

theorem exec_slt_eq (a : AcReg) (r1 r2 : RfReg) (s : State) : exec (.slt a r1 r2) s
    = .next (s.writeAc a (if sltLess s.params (s.readRf r1) (s.readRf r2) then 1 else 0)).advance :=
  aluReg_eq (fun x y => if sltLess s.params x y then 1 else 0) a r1 r2 s

/-- Settles O11. The two comparisons of words are those of their signed and of their unsigned values. -/
theorem sltComparesSignedOrUnsigned : Obligations.SltComparesSignedOrUnsigned := by
  intro a r1 r2 s
  refine writesAc_of_exec_eq (exec_slt_eq a r1 r2 s) ?_
  cases hsigned : s.params.sltSigned
  · simp only [sltLess, hsigned, BitVec.ult, decide_eq_true_eq, Bool.false_eq_true, if_false]
    rfl
  · simp only [sltLess, hsigned, BitVec.slt, decide_eq_true_eq, if_true]
    rfl

theorem exec_sra_eq (a : AcReg) (r1 : RfReg) (shamt : Shamt) (s : State) :
    exec (.sra a r1 shamt) s = .next (s.writeAc a ((s.readRf r1).sshiftRight shamt.toNat)).advance :=
  shiftReg_eq (fun x n => x.sshiftRight n) a r1 shamt s

/-- Settles O16. An arithmetic shift of a word is the shift of its signed value, which rounds down. -/
theorem sraRoundsTowardMinusInfinity : Obligations.SraRoundsTowardMinusInfinity := by
  intro a r1 shamt s
  refine writesAc_of_exec_eq (exec_sra_eq a r1 shamt s) ?_
  rw [BitVec.toInt_sshiftRight, Int.shiftRight_eq_div_pow]
  norm_cast

/-! ## Constants (spec/30_encoding.md section 5) -/

/-- The two halves of a word put it together. -/
theorem highByte16_or_zext16 (K : Word) : highByte16 (K.extractLsb' 8 8) ||| zext16 (K.extractLsb' 0 8) = K := by
  have halves : (K.extractLsb' 8 8 ++ 0#8) ||| (0#8 ++ K.extractLsb' 0 8) = K.extractLsb' 8 8 ++ K.extractLsb' 0 8 := by
    rw [BitVec.or_append, BitVec.or_zero, BitVec.zero_or]
  exact halves.trans (wordOfBytes_lo_hi K)

/-- Settles O22. `lui` leaves the high byte over zeros, and `ori` sets the low byte under it. -/
theorem luiThenOriBuildsAConstant : Obligations.LuiThenOriBuildsAConstant := by
  intro K a s
  have upper : Unchanged { ac := some a } s (s.writeAc a (highByte16 (K.extractLsb' 8 8))).advance :=
    unchanged_writeAc s a _ _
  refine ⟨_, _, exec_lui_eq a _ s, exec_ori_eq a _ _, ?constant, ?goesOn, upper.trans (unchanged_writeAc _ a _ _)⟩
  case constant =>
    rw [State.readAc_advance, State.readAc_writeAc_same, State.readAc_advance, State.readAc_writeAc_same,
      highByte16_or_zext16]
  case goesOn =>
    rw [State.advance_pc, State.writeAc_pc, State.advance_pc, State.writeAc_pc, BitVec.add_assoc]
    rfl

/-! ## Moves between the banks (R134, R135) -/

theorem exec_mtac_eq (a : AcReg) (r1 : RfReg) (s : State) :
    exec (.mtac a r1) s = .next (s.writeAc a (s.readRf r1)).advance := rfl

theorem exec_mfac_eq (a : AcReg) (r1 : RfReg) (s : State) :
    exec (.mfac a r1) s = .next (s.writeRf r1 (s.readAc a)).advance := rfl

theorem State.readSp_of_spLoc {s : State} {r : RfReg} (h : s.params.spLoc = .rf r) : s.readSp = s.readRf r := by
  rw [State.readSp, h]

theorem State.readLk_of_lkLoc {s : State} {r : RfReg} (h : s.params.lkLoc = .rf r) : s.readLk = s.readRf r := by
  rw [State.readLk, h]

/-- Writing one rf register and moving `pc` changes that register and `pc`. -/
theorem unchanged_writeRf (s : State) (r : RfReg) (v pc' : Word) :
    Unchanged { rf := some r } s ((s.writeRf r v).setPc pc') := by
  refine ⟨fun _ _ => rfl, fun q hq => ?_, fun _ => rfl, fun _ => rfl, fun _ => rfl, fun _ => rfl, fun _ _ => rfl,
    fun _ => rfl, rfl⟩
  rw [State.readRf_setPc, State.readRf_writeRf, if_neg]
  rintro rfl
  exact hq rfl

/-- Settles O18. Where `sp` or `lk` lives in `rf[r1]`, reading and writing that register is reading and writing it. -/
theorem movesBetweenTheBanksCopyARegister : Obligations.MovesBetweenTheBanksCopyARegister := by
  intro a r1 s
  refine ⟨encodeR_eq_regWord 19#6 a r1 0, encodeR_eq_regWord 20#6 a r1 0, ?mtac, ?mfac⟩
  case mtac =>
    exact writesAc_of_exec_eq (exec_mtac_eq a r1 s)
      ⟨rfl, fun hsp => (State.readSp_of_spLoc hsp).symm, fun hlk => (State.readLk_of_lkLoc hlk).symm⟩
  case mfac =>
    let t := (s.writeRf r1 (s.readAc a)).advance
    have copied : t.readRf r1 = s.readAc a := State.readRf_writeRf_same s r1 _
    exact ⟨t, exec_mfac_eq a r1 s, copied, State.advance_pc _, unchanged_writeRf s r1 _ _,
      fun hsp => (State.readSp_of_spLoc (s := t) hsp).trans copied,
      fun hlk => (State.readLk_of_lkLoc (s := t) hlk).trans copied⟩

/-! ## Memory accesses -/

/-- Settles O27. `MemRead` of an accessible word without a value stops. -/
theorem unwrittenWordsFaultOnLoad : Obligations.UnwrittenWordsFaultOnLoad := by
  intro a r1 r2 s
  have stops (ea : Word) (k : Word → State) (hacc : s.accessible ea) (hnone : s.mem.readWord ea = none) :
      afterAccess (s.memRead ea) k = .fault (.uninitRead s.pc ea) :=
    afterAccess_eq_fault.2 (State.memRead_eq_error.2 (.inr ⟨hacc, hnone, rfl⟩))
  exact ⟨stops (s.indexedAddr r1 r2) _, stops s.popAddr _⟩

/-- Settles O28. `pop` finds `sp` where `push` left it, and there the word `push` stored. -/
theorem pushThenPopCopiesAndRestoresSp : Obligations.PushThenPopCopiesAndRestoresSp := by
  intro x y s hacc
  obtain ⟨-, -, completes, -⟩ := pushStoresAtTheDecrementedSp x s s.pushAddr rfl
  obtain ⟨t, hpush, hword, hsp, -, pushed⟩ := completes hacc
  obtain ⟨-, loads, -⟩ := popLoadsAtTheOldSp y t t.readSp rfl
  have haccPop : t.accessible t.readSp := hsp ▸ (State.accessible_congr pushed.params_eq).2 hacc
  obtain ⟨u, hpop, hload, hspPop, -, popped⟩ := loads (s.readAc x) haccPop (hsp ▸ hword)
  have restored : u.readSp = s.readSp := by rw [hspPop, hsp, BitVec.sub_add_cancel]
  refine ⟨t, u, hpush, hpop, hload, restored, fun b hb => ?_⟩
  have keptByPush : t.readAc b = s.readAc b := pushed.readAc_eq nofun
  have keptByPop : u.readAc b = t.readAc b := popped.readAc_eq fun h => hb (Option.some.inj h).symm
  exact keptByPop.trans keptByPush

end Sys2Proof.Machine
end

section
/-! Control Operations (spec/46_control.md): the page jumps and the links (R170, R171, R173), and the sign tests and
displacements of the branches (R174 to R180). -/

namespace Sys2Proof.Machine

/-! ## The meanings -/

section
variable (a : AcReg) (r1 : RfReg) (imm : Imm8) (imm10 : Imm10) (s : State)

theorem exec_jr_eq : exec (.jr imm10) s = .next (s.setPc (s.pageTarget imm10)) := rfl

theorem exec_jrl_eq : exec (.jrl imm10) s = .next ((s.writeLk s.nextPc).setPc (s.pageTarget imm10)) := rfl

theorem exec_jal_eq : exec (.jal r1) s = .next ((s.writeLk s.nextPc).setPc (s.readRf r1)) := rfl

theorem exec_bgtz_eq : exec (.bgtz a imm) s = branch (gtZero (s.readAc a)) (s.branchTarget imm) s := rfl

theorem exec_bltz_eq : exec (.bltz a imm) s = branch (ltZero (s.readAc a)) (s.branchTarget imm) s := rfl

theorem exec_beqz_eq : exec (.beqz a imm) s = branch (eqZero (s.readAc a)) (s.branchTarget imm) s := rfl

theorem exec_bnez_eq : exec (.bnez a imm) s = branch (neZero (s.readAc a)) (s.branchTarget imm) s := rfl

theorem exec_bgtzr_eq : exec (.bgtzr a r1) s = branch (gtZero (s.readAc a)) (s.readRf r1) s := rfl

theorem exec_bltzr_eq : exec (.bltzr a r1) s = branch (ltZero (s.readAc a)) (s.readRf r1) s := rfl

end

/-! ## Jumps in the page, and links -/

/-- The page is the part of `pc` from bit 10 on (R170, D11). -/
theorem toNat_pageTarget (s : State) (imm : Imm10) :
    (s.pageTarget imm).toNat = s.pc.toNat / 1024 * 1024 + imm.toNat := by
  have bound : s.pc.toNat < 2 ^ 16 := s.pc.isLt
  have concatenated : (s.pageTarget imm).toNat = (s.pc.extractLsb' 10 6 ++ imm).toNat := rfl
  rw [concatenated, toNat_append_eq_add, extractLsb'_toNat_eq]
  omega

/-- Writing `lk` and moving `pc` changes the one register that holds `lk` and `pc` (R28). -/
theorem unchanged_writeLk (s : State) (v pc' : Word) :
    Unchanged (Changes.withLk {} s.params) s ((s.writeLk v).setPc pc') := by
  rcases s.writeLk_eq v with ⟨written, hloc⟩ | ⟨r, written, hloc⟩
  all_goals rw [written, Changes.withLk, hloc]
  case inl =>
    exact ⟨fun _ _ => rfl, fun _ _ => rfl, fun _ => rfl, fun _ => rfl, fun _ => rfl, nofun, fun _ _ => rfl,
      fun _ => rfl, rfl⟩
  case inr => exact unchanged_writeRf s r v pc'

theorem readLk_of_link (s : State) (v pc' : Word) : ((s.writeLk v).setPc pc').readLk = v := by
  rw [State.readLk_setPc, State.readLk_writeLk]

/-- Settles O29. Both jump to the page target; `jrl` writes `lk` first, which does not move `pc`. -/
theorem pageJumpsKeepThePageOfTheJump : Obligations.PageJumpsKeepThePageOfTheJump := by
  intro imm s
  exact ⟨⟨_, exec_jr_eq imm s, toNat_pageTarget s imm, unchanged_setPc s _⟩,
    ⟨_, exec_jrl_eq imm s, toNat_pageTarget s imm, readLk_of_link s _ _, unchanged_writeLk s _ _⟩⟩

/-- Settles O31. The target is `rf[r1]` of the state before the link. -/
theorem jalReadsItsTargetBeforeLinking : Obligations.JalReadsItsTargetBeforeLinking := by
  intro r1 s
  exact ⟨_, exec_jal_eq r1 s, State.setPc_pc _ _, readLk_of_link s _ _, unchanged_writeLk s _ _⟩

/-! ## The sign tests of R174 -/

theorem gtZero_iff {v : Word} : gtZero v = true ↔ 0 < v.toInt := decide_eq_true_iff

theorem ltZero_iff {v : Word} : ltZero v = true ↔ v.toInt < 0 := decide_eq_true_iff

/-- Bit 15 is the sign. -/
theorem toInt_neg_iff_getLsbD {v : Word} : v.toInt < 0 ↔ v.getLsbD 15 = true := by
  have sign : v.getLsbD 15 = v.msb := (BitVec.msb_eq_getLsbD_last v).symm
  rw [sign, BitVec.msb_eq_toInt, decide_eq_true_iff]

theorem toInt_eq_zero_iff {v : Word} : v.toInt = 0 ↔ v = 0#16 := by
  rw [← BitVec.toInt_inj, BitVec.toInt_zero]

/-- A value above zero has sign bit 0 and is not zero. -/
theorem toInt_pos_iff_getLsbD {v : Word} : 0 < v.toInt ↔ v.getLsbD 15 = false ∧ v ≠ 0#16 := by
  rw [← Bool.not_eq_true, ← toInt_neg_iff_getLsbD, ne_eq, ← toInt_eq_zero_iff]
  omega

theorem gtZero_iff_bits {v : Word} : gtZero v = true ↔ v.getLsbD 15 = false ∧ v ≠ 0#16 :=
  gtZero_iff.trans toInt_pos_iff_getLsbD

theorem ltZero_iff_bits {v : Word} : ltZero v = true ↔ v.getLsbD 15 = true := ltZero_iff.trans toInt_neg_iff_getLsbD

/-- Settles O32. The last clause is the trichotomy of the two's-complement value. -/
theorem branchConditionsAreSignedTests : Obligations.BranchConditionsAreSignedTests := by
  intro v
  refine ⟨gtZero_iff_bits, ltZero_iff_bits, eqZero_iff, neZero_iff, gtZero_iff, ltZero_iff, ?_⟩
  simp only [← Bool.not_eq_true, gtZero_iff, ltZero_iff, eqZero_iff, ← toInt_eq_zero_iff]
  omega

/-- Settles O35. -/
theorem signTestRegisterBranchesGoToTheRegister : Obligations.SignTestRegisterBranchesGoToTheRegister := by
  intro a r1 s
  exact ⟨jumpsTo_of_exec_eq_branch (exec_bgtzr_eq a r1 s) gtZero_iff_bits,
    jumpsTo_of_exec_eq_branch (exec_bltzr_eq a r1 s) ltZero_iff_bits⟩

/-! ## The displacement (R174, D8) -/

/-- The signed and the unsigned value of a word are the same modulo 2^16. -/
theorem toNat_eq_toInt_emod (x : Word) : (x.toNat : ℤ) = x.toInt % 65536 := by
  rw [BitVec.toInt_eq_toNat_cond]
  split <;> omega

theorem toNat_branchDisp (p : Params) (imm : Imm8) :
    ((branchDisp p imm).toNat : ℤ) = (if p.branchImmSigned then imm.toInt else (imm.toNat : ℤ)) % 65536 := by
  rw [branchDisp]
  split
  · rw [toNat_eq_toInt_emod, toInt_sext16]
  · rw [toNat_zext16]
    omega

theorem toNat_branchTarget (s : State) (imm : Imm8) : ((s.branchTarget imm).toNat : ℤ)
    = ((s.pc.toNat : ℤ) + 1 + (if s.params.branchImmSigned then imm.toInt else (imm.toNat : ℤ))) % 65536 := by
  have next : (s.nextPc.toNat : ℤ) = (s.pc.toNat + 1 : ℤ) % 65536 := toNat_add_eq_emod s.pc 1
  rw [State.branchTarget, toNat_add_eq_emod, next, toNat_branchDisp, ← Int.add_emod]

/-- Settles O33. The number of the target fixes the word. -/
theorem immediateBranchesAddTheDisplacement : Obligations.ImmediateBranchesAddTheDisplacement := by
  intro a imm s target htarget
  have unique : target = s.branchTarget imm := by
    rw [← toNat_branchTarget] at htarget
    exact BitVec.eq_of_toNat_eq (Int.ofNat.inj htarget)
  subst unique
  exact ⟨jumpsTo_of_exec_eq_branch (exec_bgtz_eq a imm s) gtZero_iff,
    jumpsTo_of_exec_eq_branch (exec_bltz_eq a imm s) ltZero_iff,
    jumpsTo_of_exec_eq_branch (exec_beqz_eq a imm s) eqZero_iff,
    jumpsTo_of_exec_eq_branch (exec_bnez_eq a imm s) neZero_iff⟩

end Sys2Proof.Machine
end

section
/-! The multiplication and division steps (spec/41_logical_arithmetic.md section 2): each as arithmetic on the pair
`hi:lo` read as one 32-bit number. -/

namespace Sys2Proof.Machine

/-! ## The pair as one number -/

/-- Two words read as one number, the first one above. -/
def pairToNat (p : Word × Word) : ℕ := p.1.toNat * 65536 + p.2.toNat

theorem pairToNat_lt (p : Word × Word) : pairToNat p < 4294967296 := by
  have hhi : p.1.toNat < 65536 := p.1.isLt
  have hlo : p.2.toNat < 65536 := p.2.isLt
  rw [pairToNat]
  omega

/-- Bits 32 to 1 of a 33-bit number are its half. -/
theorem pairToNat_upper (x : BitVec 33) : pairToNat (x.extractLsb' 17 16, x.extractLsb' 1 16) = x.toNat / 2 := by
  have bound : x.toNat < 2 ^ 33 := x.isLt
  simp only [pairToNat, BitVec.extractLsb'_toNat, Nat.shiftRight_eq_div_pow]
  omega

/-- Bits 31 to 0 of a 33-bit number drop its top bit. -/
theorem pairToNat_lower (x : BitVec 33) :
    pairToNat (x.extractLsb' 16 16, x.extractLsb' 0 16) = x.toNat % 4294967296 := by
  simp only [pairToNat, BitVec.extractLsb'_toNat, Nat.shiftRight_eq_div_pow]
  omega

/-! ## One multiplication step (R111) -/

theorem getLsbD_zero_iff_odd {x : Word} : x.getLsbD 0 = true ↔ x.toNat % 2 = 1 := by
  rw [BitVec.getLsbD, Nat.testBit_zero, decide_eq_true_iff]

/-- What enters above `lo` when `lo` is odd: the sum, with its carry or without it (D5). -/
def tmulSum (topBit : TmulTopBit) (hi m : ℕ) : ℕ :=
  match topBit with
  | .carry => hi + m
  | .zero => (hi + m) % 65536

/-- The 17-bit sum is the carry over the 16 bits that the shift keeps. -/
theorem toNat_sum17 (hi m : Word) : (hi.setWidth 17 + m.setWidth 17).toNat = hi.toNat + m.toNat := by
  have hhi : hi.toNat < 2 ^ 16 := hi.isLt
  have hm : m.toNat < 2 ^ 16 := m.isLt
  rw [BitVec.toNat_add, BitVec.toNat_setWidth, BitVec.toNat_setWidth]
  omega

theorem carry_append_sum (topBit : TmulTopBit) (hi m : Word) :
    ((BitVec.ofBool ((hi.setWidth 17 + m.setWidth 17).getLsbD 16 && (topBit == .carry)))
      ++ (hi.setWidth 17 + m.setWidth 17).extractLsb' 0 16).toNat = tmulSum topBit hi.toNat m.toNat := by
  have bound : (hi.setWidth 17 + m.setWidth 17).toNat < 2 ^ 17 := BitVec.isLt _
  have carry : ((hi.setWidth 17 + m.setWidth 17).getLsbD 16).toNat = (hi.toNat + m.toNat) / 65536 := by
    rw [BitVec.getLsbD, Nat.toNat_testBit, toNat_sum17]
    rw [toNat_sum17] at bound
    omega
  rw [toNat_append_eq_add, BitVec.extractLsb'_toNat, Nat.shiftRight_zero, toNat_sum17, BitVec.toNat_ofBool]
  cases topBit with
  | carry =>
    rw [tmulSum, beq_self_eq_true, Bool.and_true, carry]
    omega
  | zero =>
    have off : (TmulTopBit.zero == .carry) = false := rfl
    rw [tmulSum, off, Bool.and_false]
    exact Nat.zero_add _

theorem pairToNat_tmulStep (topBit : TmulTopBit) (hi lo m : Word) : pairToNat (tmulStep topBit hi lo m)
    = if lo.toNat % 2 = 0 then (hi.toNat * 65536 + lo.toNat) / 2
      else (tmulSum topBit hi.toNat m.toNat * 65536 + lo.toNat) / 2 := by
  rw [tmulStep, pairToNat_upper, toNat_append_eq_add]
  cases hodd : lo.getLsbD 0
  · have even : lo.toNat % 2 = 0 := by
      have := mt getLsbD_zero_iff_odd.2 (Bool.eq_false_iff.1 hodd)
      omega
    simp only [Bool.false_and, even, if_true, Bool.false_eq_true, if_false, toNat_append_eq_add,
      BitVec.toNat_ofBool, Bool.toNat_false, Nat.zero_mul, Nat.zero_add, Nat.reducePow]
  · have odd : ¬ lo.toNat % 2 = 0 := by
      have := getLsbD_zero_iff_odd.1 hodd
      omega
    simp only [Bool.true_and, odd, if_false, if_true, carry_append_sum, Nat.reducePow]

/-- Settles O13. Without an addition, or without a carry, the two readings of the sum are the same. -/
theorem tmulReadingsAgreeWithoutACarry : Obligations.TmulReadingsAgreeWithoutACarry := by
  intro hi lo m hagree
  have carryOff : (lo.getLsbD 0 && (hi.setWidth 17 + m.setWidth 17).getLsbD 16) = false := by
    rw [Bool.and_eq_false_iff]
    refine hagree.imp (fun even => ?_) fun small => ?_
    · rw [Bool.eq_false_iff, ne_eq, getLsbD_zero_iff_odd]
      omega
    · rw [BitVec.getLsbD, toNat_sum17]
      exact Nat.testBit_lt_two_pow small
  simp only [tmulStep, ← Bool.and_assoc, carryOff, Bool.false_and]

theorem exec_tmul_eq (r2 : RfReg) (s : State) : exec (.tmul r2) s
    = writePair (tmulStep s.params.tmulTopBit s.hi s.lo (s.readRf r2)) s := rfl

theorem exec_tdiv_eq (r2 : RfReg) (s : State) : exec (.tdiv r2) s
    = writePair (tdivStep s.hi s.lo (s.readRf r2)) s := rfl

/-- Writing the pair and moving `pc` changes `hi`, `lo` and `pc`. -/
theorem unchanged_writePair (s : State) (hi lo pc' : Word) :
    Unchanged { hi := true, lo := true } s (((s.setHi hi).setLo lo).setPc pc') :=
  ⟨fun _ _ => rfl, fun _ _ => rfl, nofun, nofun, fun _ => rfl, fun _ => rfl, fun _ _ => rfl, fun _ => rfl, rfl⟩

/-- Settles O12. The sum above `lo` is the one `TMUL_TOP_BIT` names. -/
theorem tmulAddsThenShiftsThePairRight : Obligations.TmulAddsThenShiftsThePairRight := by
  intro r2 s
  refine ⟨_, exec_tmul_eq r2 s, State.advance_pc _, unchanged_writePair s _ _ _,
    (pairToNat_tmulStep s.params.tmulTopBit s.hi s.lo (s.readRf r2)).trans ?_⟩
  cases s.params.tmulTopBit <;> rfl

/-! ## One division step (R112) -/

theorem pairToNat_tdivStep (hi lo d : Word) : pairToNat (tdivStep hi lo d)
    = if d.toNat ≤ hi.toNat then ((hi.toNat - d.toNat) * 65536 + lo.toNat) * 2 % 4294967296
      else ((hi.toNat * 65536 + lo.toNat) * 2 + 1) % 4294967296 := by
  rw [tdivStep, pairToNat_lower, toNat_append_eq_add, toNat_append_eq_add, BitVec.toNat_ofBool]
  by_cases hle : d.toNat ≤ hi.toNat
  · have below : d.ule hi = true := decide_eq_true hle
    rw [below, if_pos rfl, if_pos hle, BitVec.toNat_sub_of_le hle, Bool.not_true, Bool.toNat_false]
    omega
  · have above : d.ule hi = false := decide_eq_false hle
    rw [above, if_neg Bool.false_ne_true, if_neg hle, Bool.not_false, Bool.toNat_true]
    omega

/-- Settles O14. -/
theorem tdivSubtractsThenShiftsThePairLeft : Obligations.TdivSubtractsThenShiftsThePairLeft := by
  intro r2 s
  exact ⟨_, exec_tdiv_eq r2 s, State.advance_pc _, unchanged_writePair s _ _ _,
    pairToNat_tdivStep s.hi s.lo (s.readRf r2)⟩

end Sys2Proof.Machine
end

section
/-! The multiplication and division sequences (spec/41_logical_arithmetic.md section 3): the number the pair `hi:lo`
holds after `n` steps, and the induction over the steps. -/

namespace Sys2Proof.Machine

/-! ## Repeating one instruction -/

/-- What one execution keeps, numbered by the executions done so far, holds after `k` more of them. -/
theorem execTimes_keeps {i : Instr} {P : ℕ → State → Prop} {N : ℕ}
    (keeps : ∀ n < N, ∀ s, P n s → ∃ t, exec i s = .next t ∧ P (n + 1) t) (k : ℕ) :
    ∀ n s, n + k ≤ N → P n s → ∃ t, execTimes k i s = .next t ∧ P (n + k) t := by
  induction k with
  | zero => exact fun n s _ hs => ⟨s, rfl, hs⟩
  | succ k ih =>
    intro n s hle hs
    obtain ⟨t, hexec, ht⟩ := keeps n (by omega) s hs
    obtain ⟨u, hrun, hu⟩ := ih (n + 1) t (by omega) ht
    refine ⟨u, ?_, by rwa [Nat.add_right_comm] at hu⟩
    rw [execTimes, hexec]
    exact hrun

/-- The states reached from `s` by `n` steps on the pair alone, where the pair holds `value n`. -/
def AfterSteps (s : State) (value : ℕ → ℕ) (n : ℕ) (t : State) : Prop :=
  pairToNat (t.hi, t.lo) = value n ∧ t.pc = s.pc + BitVec.ofNat 16 n ∧ Unchanged { hi := true, lo := true } s t

/-- Repeating an instruction that writes the pair takes it through the values that each step of it gives. -/
theorem execTimes_writePair {i : Instr} {s : State} {pair : State → Word × Word} {value : ℕ → ℕ} (N : ℕ)
    (hexec : ∀ t, exec i t = writePair (pair t) t) (start : pairToNat (s.hi, s.lo) = value 0)
    (step : ∀ n < N, ∀ t, AfterSteps s value n t → pairToNat (pair t) = value (n + 1)) :
    ∃ t, execTimes N i s = .next t ∧ AfterSteps s value N t := by
  have keeps (n : ℕ) (hn : n < N) (t : State) (ht : AfterSteps s value n t) :
      ∃ u, exec i t = .next u ∧ AfterSteps s value (n + 1) u := by
    refine ⟨_, (hexec t).trans (writePair_eq _ t), step n hn t ht, ?_, ?_⟩
    all_goals obtain ⟨-, hpc, frame⟩ := ht
    · rw [State.advance_pc, State.setLo_pc, State.setHi_pc, hpc, BitVec.ofNat_add, BitVec.add_assoc]
      rfl
    · exact frame.trans (unchanged_writePair t _ _ _)
  have initial : AfterSteps s value 0 s :=
    ⟨start, (BitVec.add_zero s.pc).symm, fun _ _ => rfl, fun _ _ => rfl, nofun, nofun, fun _ => rfl, fun _ => rfl,
      fun _ _ => rfl, fun _ => rfl, rfl⟩
  have run := execTimes_keeps keeps N 0 s (by omega) initial
  rwa [Nat.zero_add] at run

theorem pairToNat_of_hi_zero {s : State} (h : s.hi = 0#16) : pairToNat (s.hi, s.lo) = s.lo.toNat := by
  simp only [pairToNat, h, BitVec.toNat_ofNat, Nat.zero_mod, Nat.zero_mul, Nat.zero_add]

/-! ## Multiplication (R114) -/

/-- The pair after `n` steps from `hi = 0`, `lo = x`: the product of `m` and the low `n` bits of `x`, above the bits of
`x` still to come. -/
def productAfter (m x n : ℕ) : ℕ := m * (x % 2 ^ n) * 2 ^ (16 - n) + x / 2 ^ n

theorem productAfter_succ {m x n hi lo : ℕ} (hn : n < 16) (hpair : hi * 65536 + lo = productAfter m x n) :
    (if lo % 2 = 0 then (hi * 65536 + lo) / 2 else ((hi + m) * 65536 + lo) / 2) = productAfter m x (n + 1) := by
  obtain ⟨c, hc⟩ : ∃ c, c = 2 ^ (15 - n) := ⟨_, rfl⟩
  have weight : 2 ^ (16 - n) = 2 * c := by rw [hc, ← pow_succ']; congr 1; omega
  have weight' : 2 ^ (16 - (n + 1)) = c := by rw [hc]; congr 1; omega
  have total : 2 ^ n * c = 32768 := by
    rw [hc, ← pow_add, show n + (15 - n) = 15 by omega]
    rfl
  have digit : x % 2 ^ (n + 1) = x % 2 ^ n + 2 ^ n * (x / 2 ^ n % 2) := Nat.mod_pow_succ
  have rest : x / 2 ^ (n + 1) = x / 2 ^ n / 2 := by rw [pow_succ, Nat.div_div_eq_div_mul]
  have before : productAfter m x n = 2 * (m * (x % 2 ^ n) * c) + x / 2 ^ n := by
    rw [productAfter, weight]
    ring
  have after : productAfter m x (n + 1)
      = m * (x % 2 ^ n) * c + m * (x / 2 ^ n % 2) * 32768 + x / 2 ^ n / 2 := by
    rw [productAfter, weight', digit, rest, ← total]
    ring
  rw [before] at hpair
  rw [after]
  rcases Nat.mod_two_eq_zero_or_one (x / 2 ^ n) with even | odd
  · rw [if_pos (by omega), even]
    omega
  · rw [if_neg (by omega), odd]
    omega

/-- With a multiplicand of at most 2^15 no addition carries: `hi` stays below the multiplicand. -/
theorem productAfter_no_carry {m x n hi lo : ℕ} (hx : x < 65536) (hm : m ≤ 32768) (hn : n < 16)
    (hpair : hi * 65536 + lo = productAfter m x n) : hi + m < 65536 := by
  obtain ⟨e, he⟩ : ∃ e, e = 2 ^ (16 - n) := ⟨_, rfl⟩
  have total : 2 ^ n * e = 65536 := by
    rw [he, ← pow_add, show n + (16 - n) = 16 by omega]
    rfl
  have digits : (x % 2 ^ n + 1) * e ≤ 65536 := total ▸ Nat.mul_le_mul_right e (Nat.mod_lt x (Nat.two_pow_pos n))
  have rest : x / 2 ^ n < e := Nat.div_lt_of_lt_mul (total ▸ hx)
  have product : m * (x % 2 ^ n) * e + m * e ≤ m * 65536 :=
    calc m * (x % 2 ^ n) * e + m * e = m * ((x % 2 ^ n + 1) * e) := by ring
      _ ≤ m * 65536 := Nat.mul_le_mul_left m digits
  have rest' : x / 2 ^ n ≤ x := Nat.div_le_self x (2 ^ n)
  rw [productAfter, ← he] at hpair
  rcases Nat.eq_zero_or_pos m with rfl | hpos
  · omega
  · have : e ≤ m * e := Nat.le_mul_of_pos_left e hpos
    omega

/-- Settles O52. Each step is that of `productAfter`: the carry is kept, or there is none. -/
theorem sixteenTmulStepsMultiply : Obligations.SixteenTmulStepsMultiply := by
  intro r2 s hhi hcarry
  have hlo : s.lo.toNat < 65536 := s.lo.isLt
  have start : pairToNat (s.hi, s.lo) = productAfter (s.readRf r2).toNat s.lo.toNat 0 := by
    rw [pairToNat_of_hi_zero hhi, productAfter, pow_zero, Nat.mod_one, Nat.mul_zero, Nat.zero_mul, Nat.zero_add,
      Nat.div_one]
  have step : ∀ n < 16, ∀ t, AfterSteps s (productAfter (s.readRf r2).toNat s.lo.toNat) n t →
      pairToNat (tmulStep t.params.tmulTopBit t.hi t.lo (t.readRf r2))
        = productAfter (s.readRf r2).toNat s.lo.toNat (n + 1) := by
    rintro n hn t ⟨hpair, -, frame⟩
    have sum : tmulSum s.params.tmulTopBit t.hi.toNat (s.readRf r2).toNat = t.hi.toNat + (s.readRf r2).toNat := by
      rcases hcarry with carry | small
      · rw [carry, tmulSum]
      · have noCarry := productAfter_no_carry hlo small hn hpair
        cases s.params.tmulTopBit
        · exact Nat.mod_eq_of_lt noCarry
        · rfl
    rw [pairToNat_tmulStep, frame.params_eq, frame.readRf_eq nofun, sum]
    exact productAfter_succ hn hpair
  obtain ⟨t, hrun, hpair, hpc, frame⟩ := execTimes_writePair 16 (exec_tmul_eq r2) start step
  refine ⟨t, hrun, hpair.trans ?_, hpc, frame⟩
  rw [productAfter, Nat.sub_self, pow_zero, Nat.mul_one, Nat.mod_eq_of_lt s.lo.isLt, Nat.div_eq_of_lt s.lo.isLt,
    Nat.add_zero]

/-! ## Division (R115) -/

/-- The pair after `n` steps from `hi = 0`, `lo = x`, with `q` and `r` the quotient and remainder by `d` of the bits of
`x` brought into `hi` and compared so far: twice `r`, the bits of `x` still to come, and the complement of `q` in `n`
bits. -/
def quotientAfter (d x n : ℕ) : ℕ :=
  x / 2 ^ (17 - n) % d * 131072 + x % 2 ^ (17 - n) * 2 ^ n + (2 ^ n - (x / 2 ^ (17 - n) / d + 1))

/-- One more bit of a dividend, with a remainder of at least the divisor or below it. -/
theorem div_mod_two_mul_add {d A b : ℕ} (hd : 0 < d) (hb : b < 2) :
    if d ≤ 2 * (A % d) + b then (2 * A + b) / d = 2 * (A / d) + 1 ∧ (2 * A + b) % d = 2 * (A % d) + b - d
    else (2 * A + b) / d = 2 * (A / d) ∧ (2 * A + b) % d = 2 * (A % d) + b := by
  have split : A % d + d * (A / d) = A := Nat.mod_add_div A d
  have small : A % d < d := Nat.mod_lt A hd
  split_ifs with hle
  · refine (Nat.div_mod_unique hd).2 ⟨?_, by omega⟩
    rw [Nat.mul_add, Nat.mul_left_comm]
    omega
  · refine (Nat.div_mod_unique hd).2 ⟨?_, by omega⟩
    rw [Nat.mul_left_comm]
    omega

theorem quotientAfter_succ {d x n hi lo : ℕ} (hd : 0 < d) (hd' : d ≤ 32768) (hx : x < 65536) (hn : n < 17)
    (hlo : lo < 65536) (hpair : hi * 65536 + lo = quotientAfter d x n) :
    (if d ≤ hi then ((hi - d) * 65536 + lo) * 2 % 4294967296 else ((hi * 65536 + lo) * 2 + 1) % 4294967296)
      = quotientAfter d x (n + 1) := by
  obtain ⟨c, hc⟩ : ∃ c, c = 2 ^ (16 - n) := ⟨_, rfl⟩
  obtain ⟨k, hk⟩ : ∃ k, k = 2 ^ n := ⟨_, rfl⟩
  have weight : 2 ^ (17 - n) = c * 2 := by rw [hc, ← pow_succ]; congr 1; omega
  have weight' : 2 ^ (17 - (n + 1)) = c := by rw [hc]; congr 1; omega
  have total : c * k = 65536 := by
    rw [hc, hk, ← pow_add, show 16 - n + n = 16 by omega]
    rfl
  have digit : x % (c * 2) = x % c + c * (x / c % 2) := Nat.mod_mul
  have broughtIn : x / (c * 2) = x / c / 2 := by rw [Nat.div_div_eq_div_mul]
  have toCome : (x % c + 1) * k ≤ 65536 := total ▸ Nat.mul_le_mul_right k (Nat.mod_lt x (hc ▸ Nat.two_pow_pos _))
  have quotient : x / c / 2 / d < k := by
    have : x / c < k := Nat.div_lt_of_lt_mul (total ▸ hx)
    exact (Nat.div_le_self _ d).trans_lt ((Nat.div_le_self _ 2).trans_lt this)
  have before : quotientAfter d x n = x / c / 2 % d * 131072 + (x % c * k + x / c % 2 * 65536)
      + (k - (x / c / 2 / d + 1)) := by
    rw [quotientAfter, weight, digit, broughtIn, ← hk, ← total]
    ring
  have after : quotientAfter d x (n + 1) = x / c % d * 131072 + x % c * k * 2 + (k * 2 - (x / c / d + 1)) := by
    rw [quotientAfter, weight', pow_succ, ← hk]
    ring
  have bits : 2 * (x / c / 2) + x / c % 2 = x / c := Nat.div_add_mod (x / c) 2
  have oneBit := div_mod_two_mul_add (A := x / c / 2) hd (Nat.mod_lt (x / c) Nat.two_pos)
  have remainder : x / c / 2 % d < d := Nat.mod_lt _ hd
  rw [Nat.add_mul, Nat.one_mul] at toCome
  rw [before] at hpair
  rw [after]
  rw [bits] at oneBit
  generalize x / c / 2 / d = q, x / c / 2 % d = r at quotient remainder oneBit hpair
  have hhi : hi = 2 * r + x / c % 2 := by omega
  rw [← hhi] at oneBit
  split_ifs at oneBit ⊢ with hle
  all_goals
    obtain ⟨hdiv, hmod⟩ := oneBit
    rw [hdiv, hmod]
    omega

/-- Settles O53. After seventeen steps the whole dividend has been compared; the bit above the quotient in `lo` is gone
into `hi`, under twice the remainder. -/
theorem seventeenTdivStepsDivide : Obligations.SeventeenTdivStepsDivide := by
  intro r2 s hhi hpos hle
  have hlo : s.lo.toNat < 65536 := s.lo.isLt
  have start : pairToNat (s.hi, s.lo) = quotientAfter (s.readRf r2).toNat s.lo.toNat 0 := by
    have none : s.lo.toNat / 2 ^ 17 = 0 := Nat.div_eq_of_lt (by omega)
    rw [pairToNat_of_hi_zero hhi, quotientAfter, Nat.sub_zero, none, Nat.zero_mod, Nat.zero_div]
    omega
  have step : ∀ n < 17, ∀ t, AfterSteps s (quotientAfter (s.readRf r2).toNat s.lo.toNat) n t →
      pairToNat (tdivStep t.hi t.lo (t.readRf r2)) = quotientAfter (s.readRf r2).toNat s.lo.toNat (n + 1) := by
    rintro n hn t ⟨hpair, -, frame⟩
    rw [pairToNat_tdivStep, frame.readRf_eq nofun]
    exact quotientAfter_succ hpos hle hlo hn t.lo.isLt hpair
  obtain ⟨t, hrun, hpair, hpc, frame⟩ := execTimes_writePair 17 (exec_tdiv_eq r2) start step
  have quotient : s.lo.toNat / (s.readRf r2).toNat ≤ s.lo.toNat := Nat.div_le_self _ _
  have done : t.hi.toNat * 65536 + t.lo.toNat = s.lo.toNat % (s.readRf r2).toNat * 131072
      + (131072 - (s.lo.toNat / (s.readRf r2).toNat + 1)) := by
    refine hpair.trans ?_
    rw [quotientAfter, Nat.sub_self, pow_zero, Nat.div_one, Nat.mod_one, Nat.zero_mul, Nat.add_zero]
    rfl
  have htlo : t.lo.toNat < 65536 := t.lo.isLt
  refine ⟨t, hrun, ?_, ?_, hpc, frame⟩
  all_goals generalize s.lo.toNat / (s.readRf r2).toNat = q at *
  · rw [BitVec.toNat_not]
    omega
  · rw [toNat_ushiftRight_eq_div_pow]
    omega

/-- Settles O54. A zero divisor is always subtracted, so each step doubles the pair modulo 2^32. -/
theorem tdivByZeroShiftsTheDividendOut : Obligations.TdivByZeroShiftsTheDividendOut := by
  intro r2 s hhi hzero
  have hlo : s.lo.toNat < 65536 := s.lo.isLt
  have start : pairToNat (s.hi, s.lo) = s.lo.toNat * 2 ^ 0 % 4294967296 := by
    rw [pairToNat_of_hi_zero hhi]
    omega
  have step : ∀ n < 17, ∀ t, AfterSteps s (fun n => s.lo.toNat * 2 ^ n % 4294967296) n t →
      pairToNat (tdivStep t.hi t.lo (t.readRf r2)) = s.lo.toNat * 2 ^ (n + 1) % 4294967296 := by
    rintro n - t ⟨hpair, -, frame⟩
    rw [pairToNat] at hpair
    rw [pairToNat_tdivStep, frame.readRf_eq nofun, hzero, BitVec.toNat_ofNat, Nat.zero_mod,
      if_pos (Nat.zero_le _), Nat.sub_zero, hpair, pow_succ, ← Nat.mul_assoc, Nat.mod_mul_mod]
  obtain ⟨t, hrun, hpair, -⟩ := execTimes_writePair 17 (exec_tdiv_eq r2) start step
  have done : t.hi.toNat * 65536 + t.lo.toNat = s.lo.toNat * 2 ^ 17 % 4294967296 := hpair
  have htlo : t.lo.toNat < 65536 := t.lo.isLt
  refine ⟨t, hrun, ?_, ?_⟩
  · rw [← BitVec.toNat_inj, BitVec.toNat_ofNat]
    omega
  · rw [← BitVec.toNat_inj, toNat_shiftLeft_eq_mul_pow_mod]
    omega

end Sys2Proof.Machine
end

section
/-! The end of a run (spec/70_reset_and_hazards.md section 3, R234). -/

namespace Sys2Proof.Machine

/-! ## The halt idiom -/

/-- `jr` to the low ten bits of `pc` goes to `pc` (R170, R234). -/
theorem pageTarget_self (s : State) : s.pageTarget (s.pc.extractLsb' 0 10) = s.pc := by
  rw [← BitVec.toNat_inj, toNat_pageTarget, extractLsb'_toNat_eq]
  omega

theorem halted_iff {s : State} : s.halted = true ↔ s.fetch = .ok (haltWord s.pc) := by
  unfold State.halted
  cases s.fetch <;> simp

/-- Settles O50. The idiom decodes to a `jr` to `pc`, which leaves `pc` and everything else. -/
theorem haltIdiomIsAFixedPoint : Obligations.HaltIdiomIsAFixedPoint := by
  intro s hhalted
  rw [step_eq_exec (halted_iff.1 hhalted) (decode_encode _), exec_jr_eq, pageTarget_self]
  rfl

/-! ## What `runUntilHalt` and `core.run` do -/

theorem runUntilHalt_of_halted {s : State} (k : ℕ) (h : s.halted = true) : runUntilHalt k s = .final s := by
  cases k <;> exact if_pos h

theorem runUntilHalt_zero {s : State} (h : s.halted = false) : runUntilHalt 0 s = .running s :=
  if_neg (Bool.eq_false_iff.1 h)

theorem runUntilHalt_succ_of_next {s t : State} {k : ℕ} (h : s.halted = false) (hstep : step s = .next t) :
    runUntilHalt (k + 1) s = runUntilHalt k t := by
  rw [runUntilHalt, if_neg (Bool.eq_false_iff.1 h), hstep]

theorem runUntilHalt_succ_of_fault {s : State} {f : Fault} {k : ℕ} (h : s.halted = false)
    (hstep : step s = .fault f) : runUntilHalt (k + 1) s = .faulted f := by
  rw [runUntilHalt, if_neg (Bool.eq_false_iff.1 h), hstep]

/-- A step goes on or faults: the fetch and the decoder never refuse, and no instruction does. -/
theorem step_next_or_fault (s : State) : (∃ t, step s = .next t) ∨ ∃ f, step s = .fault f := by
  unfold step
  split
  · exact .inr ⟨_, rfl⟩
  · split
    · exact .inr ⟨_, rfl⟩
    · rename_i i _
      obtain ⟨next | ⟨f, hfault, -⟩, -⟩ := onlyDataAccessesCanStop i s
      · exact .inl next
      · exact .inr ⟨f, hfault⟩

theorem coreRun_succ {M : Host.Core} {s t : M.State} (k : ℕ) (hstep : M.step s = .next t) :
    M.run (k + 1) s = M.run k t := by
  rw [Host.Core.run, hstep]

theorem run_succ {s t : State} (k : ℕ) (hstep : step s = .next t) :
    Sys2Proof.core.run (k + 1) s = Sys2Proof.core.run k t := coreRun_succ (M := Sys2Proof.core) k hstep

/-- The states of the run after fewer than `k` steps exist and are not terminal. -/
def NotTerminalBefore (k : ℕ) (s : State) : Prop :=
  ∀ i < k, ∃ u, Sys2Proof.core.run i s = .next u ∧ State.halted u = false

theorem notTerminalBefore_succ {s t : State} {k : ℕ} (h : s.halted = false) (hstep : step s = .next t)
    (later : NotTerminalBefore k t) : NotTerminalBefore (k + 1) s := by
  intro i hi
  cases i with
  | zero => exact ⟨s, rfl, h⟩
  | succ i =>
    rw [run_succ i hstep]
    exact later i (by omega)

theorem notTerminalBefore_one {s : State} (h : s.halted = false) : NotTerminalBefore 1 s := by
  intro i hi
  obtain rfl : i = 0 := by omega
  exact ⟨s, rfl, h⟩

/-- What the end of a run of at most `k` steps from `s` says about the run. -/
def EndSays (k : ℕ) (s : State) : RunEnd → Prop
  | .final t => t.halted = true ∧ ∃ j ≤ k, Sys2Proof.core.run j s = .next t ∧ NotTerminalBefore j s
  | .faulted f =>
    ∃ j < k, (∃ u, Sys2Proof.core.run j s = .next u ∧ step u = .fault f) ∧ NotTerminalBefore (j + 1) s
  | .refused _ => False
  | .running t => Sys2Proof.core.run k s = .next t ∧ NotTerminalBefore (k + 1) s

/-- One more step in front of a run. -/
theorem endSays_succ {s t : State} {k : ℕ} {e : RunEnd} (h : s.halted = false) (hstep : step s = .next t)
    (later : EndSays k t e) : EndSays (k + 1) s e := by
  cases e with
  | final u =>
    obtain ⟨hend, j, hj, hrun, before⟩ := later
    exact ⟨hend, j + 1, by omega, (run_succ j hstep).trans hrun, notTerminalBefore_succ h hstep before⟩
  | faulted f =>
    obtain ⟨j, hj, ⟨u, hrun, hfault⟩, before⟩ := later
    exact ⟨j + 1, by omega, ⟨u, (run_succ j hstep).trans hrun, hfault⟩, notTerminalBefore_succ h hstep before⟩
  | refused r => exact later
  | running u =>
    obtain ⟨hrun, before⟩ := later
    exact ⟨(run_succ k hstep).trans hrun, notTerminalBefore_succ h hstep before⟩

theorem runUntilHalt_says (k : ℕ) (s : State) : EndSays k s (runUntilHalt k s) := by
  induction k generalizing s with
  | zero =>
    cases h : s.halted with
    | true =>
      rw [runUntilHalt_of_halted 0 h]
      exact ⟨h, 0, le_rfl, rfl, nofun⟩
    | false =>
      rw [runUntilHalt_zero h]
      exact ⟨rfl, notTerminalBefore_one h⟩
  | succ k ih =>
    cases h : s.halted with
    | true =>
      rw [runUntilHalt_of_halted (k + 1) h]
      exact ⟨h, 0, Nat.zero_le _, rfl, nofun⟩
    | false =>
      rcases step_next_or_fault s with ⟨t, hstep⟩ | ⟨f, hstep⟩
      · rw [runUntilHalt_succ_of_next h hstep]
        exact endSays_succ h hstep (ih t)
      · rw [runUntilHalt_succ_of_fault h hstep]
        exact ⟨0, Nat.succ_pos k, ⟨s, rfl, hstep⟩, notTerminalBefore_one h⟩

/-- Settles O56. Each clause is what `EndSays` says of that end. -/
theorem runStopsAtTheFirstTerminalState : Obligations.RunStopsAtTheFirstTerminalState := by
  intro k s
  have fromEnd := runUntilHalt_says k s
  refine ⟨fun t hend => ?_, fun f hend => ?_, fun t hend => ?_⟩
  all_goals rw [hend] at fromEnd
  · exact fromEnd
  · obtain ⟨j, hj, hfault, before⟩ := fromEnd
    exact ⟨j, hj, hfault, fun i hi => before i (by omega)⟩
  · obtain ⟨hrun, before⟩ := fromEnd
    exact ⟨hrun, fun i hi => before i (by omega)⟩

/-! ## Longer runs -/

/-- A run that has come to its end, at a terminal state or in a fault. -/
def RunEnd.Ended : RunEnd → Prop
  | .running _ => False
  | _ => True

theorem runUntilHalt_of_le {k j : ℕ} {s : State} {e : RunEnd} (hle : k ≤ j) (hend : runUntilHalt k s = e)
    (ended : e.Ended) : runUntilHalt j s = e := by
  induction k generalizing s j with
  | zero =>
    cases h : s.halted with
    | true => rwa [runUntilHalt_of_halted j h, ← runUntilHalt_of_halted 0 h]
    | false =>
      rw [runUntilHalt_zero h] at hend
      subst hend
      exact ended.elim
  | succ k ih =>
    obtain ⟨j, rfl⟩ : ∃ i, j = i + 1 := ⟨j - 1, by omega⟩
    cases h : s.halted with
    | true => rwa [runUntilHalt_of_halted (j + 1) h, ← runUntilHalt_of_halted (k + 1) h]
    | false =>
      rcases step_next_or_fault s with ⟨t, hstep⟩ | ⟨f, hstep⟩
      · rw [runUntilHalt_succ_of_next h hstep] at hend ⊢
        exact ih (by omega) hend
      · rwa [runUntilHalt_succ_of_fault h hstep] at hend ⊢

/-- Settles O51. A longer run takes the same steps to the same end. -/
theorem endedRunsStayEnded : Obligations.EndedRunsStayEnded := by
  intro k j s hle
  refine ⟨fun t hend => ⟨?_, runUntilHalt_of_le hle hend trivial⟩,
    fun f hend => runUntilHalt_of_le hle hend trivial⟩
  obtain ⟨hfinal, -⟩ := runStopsAtTheFirstTerminalState k s
  obtain ⟨terminal, -⟩ := hfinal t hend
  exact terminal

end Sys2Proof.Machine
end

section
/-! Memory as data: the canonical form has one list for each contents (spec/20_memory.md section 1), and a loaded image
reads back (spec/70_reset_and_hazards.md section 2, R233). -/

namespace Sys2Proof.Machine

/-! ## The canonical form -/

theorem Memory.wf_iff {m : Memory} : m.wf = true
    ↔ m.sorted = true ∧ ∀ c ∈ m, c.1 < 131072 ∧ (m.read (otherCell c.1)).isSome = true := by
  simp only [Memory.wf, Bool.and_eq_true, List.all_eq_true, decide_eq_true_eq]

/-- Where the addresses rise, what a cell reads as is its entry in the list. -/
theorem Memory.read_eq_some_iff_mem {m : Memory} (h : m.sorted = true) {k : ℕ} {v : Byte} :
    m.read k = some v ↔ (k, v) ∈ m := by
  rw [Memory.sorted_iff_pairwise] at h
  induction m with
  | nil => simp only [Memory.read, List.not_mem_nil, reduceCtorEq]
  | cons c m ih =>
    obtain ⟨j, u⟩ := c
    obtain ⟨rising, rest⟩ := List.pairwise_cons.1 h
    rw [Memory.read, List.mem_cons, Prod.mk.injEq]
    split
    · rename_i heq
      have notLater : (k, v) ∉ m := fun hmem => (rising (k, v) hmem).ne heq
      simp only [Option.some.injEq, heq, true_and, notLater, or_false, eq_comm]
    · rename_i hne
      simp only [Ne.symm hne, false_and, false_or]
      exact ih rest

/-- Every cell of the 65536 words is one of the two of its word. -/
theorem exists_word_of_cell {k : ℕ} (h : k < 131072) : ∃ a : Word, k = lowCell a ∨ k = highCell a := by
  refine ⟨BitVec.ofNat 16 (k / 2), ?_⟩
  rw [lowCell, highCell, BitVec.toNat_ofNat]
  omega

/-- In the canonical form a cell that holds a value is half of a word that does, so reading words shows it. -/
theorem Memory.read_eq_some_of_readWord_eq {m n : Memory} (hm : m.wf = true)
    (alike : ∀ a : Word, m.readWord a = n.readWord a) {k : ℕ} {v : Byte} (hread : m.read k = some v) :
    n.read k = some v := by
  obtain ⟨hsorted, hcells⟩ := Memory.wf_iff.1 hm
  obtain ⟨hlt, hother⟩ := hcells (k, v) ((Memory.read_eq_some_iff_mem hsorted).1 hread)
  obtain ⟨u, hother⟩ := Option.isSome_iff_exists.1 hother
  have wordShown (a : Word) (lo hi : Byte) (hlo : m.read (lowCell a) = some lo) (hhi : m.read (highCell a) = some hi) :
      n.read (lowCell a) = some lo ∧ n.read (highCell a) = some hi := by
    have word : m.readWord a = some (wordOfBytes lo hi) :=
      Memory.readWord_eq_some.2 (by rw [loByte_wordOfBytes, hiByte_wordOfBytes]; exact ⟨hlo, hhi⟩)
    rw [alike, Memory.readWord_eq_some, loByte_wordOfBytes, hiByte_wordOfBytes] at word
    exact word
  obtain ⟨a, rfl | rfl⟩ := exists_word_of_cell hlt
  · rw [otherCell_lowCell] at hother
    exact (wordShown a v u hread hother).1
  · rw [otherCell_highCell] at hother
    exact (wordShown a u v hother hread).2

/-- Settles O55. The two lists have the same entries, in rising order. -/
theorem canonicalMemoriesThatReadAlikeAreEqual : Obligations.CanonicalMemoriesThatReadAlikeAreEqual := by
  intro m n hm hn alike
  obtain ⟨hsortedM, -⟩ := Memory.wf_iff.1 hm
  obtain ⟨hsortedN, -⟩ := Memory.wf_iff.1 hn
  have sameEntries (c : Host.Cell) : c ∈ m ↔ c ∈ n := by
    rw [← Memory.read_eq_some_iff_mem hsortedM, ← Memory.read_eq_some_iff_mem hsortedN]
    exact ⟨Memory.read_eq_some_of_readWord_eq hm alike,
      Memory.read_eq_some_of_readWord_eq hn fun a => (alike a).symm⟩
  rw [Memory.sorted_iff_pairwise] at hsortedM hsortedN
  have : Std.Irrefl fun c d : Host.Cell => c.1 < d.1 := ⟨fun c => lt_irrefl c.1⟩
  have : Std.Antisymm fun c d : Host.Cell => c.1 < d.1 := ⟨fun c d hcd hdc => absurd hcd hdc.asymm⟩
  exact hsortedM.eq_of_mem_iff hsortedN sameEntries

/-! ## Words at consecutive addresses -/

theorem add_one_add_ofNat (a : Word) (k : ℕ) : a + 1 + BitVec.ofNat 16 k = a + BitVec.ofNat 16 (k + 1) := by
  rw [BitVec.ofNat_add, BitVec.add_assoc, BitVec.add_comm 1]
  rfl

/-- The addresses of fewer than 2^16 words after `a` do not come back to it. -/
theorem ne_add_ofNat_succ (a : Word) {k : ℕ} (h : k + 1 < 65536) : a ≠ a + BitVec.ofNat 16 (k + 1) := by
  have bound : a.toNat < 65536 := a.isLt
  rw [ne_eq, ← BitVec.toNat_inj, BitVec.toNat_add, BitVec.toNat_ofNat]
  omega

theorem Memory.readWord_writeWords_outside {m : Memory} {base a : Word} {ws : List Word}
    (outside : ∀ k < ws.length, a ≠ base + BitVec.ofNat 16 k) :
    (m.writeWords base ws).readWord a = m.readWord a := by
  induction ws generalizing m base with
  | nil => rfl
  | cons w ws ih =>
    have hne : a ≠ base := by simpa only [BitVec.ofNat_eq_ofNat, BitVec.add_zero] using outside 0 (Nat.succ_pos _)
    rw [Memory.writeWords_cons, ih, Memory.readWord_writeWord_ne m w hne]
    intro k hk
    rw [add_one_add_ofNat]
    exact outside (k + 1) (Nat.succ_lt_succ hk)

/-- A list that fits the address space does not overwrite its own words. -/
theorem Memory.readWord_writeWords {m : Memory} {base w : Word} {ws : List Word} {k : ℕ} (fits : ws.length ≤ 65536)
    (hw : ws[k]? = some w) : (m.writeWords base ws).readWord (base + BitVec.ofNat 16 k) = some w := by
  induction ws generalizing m base k with
  | nil => cases hw
  | cons v ws ih =>
    rw [List.length_cons] at fits
    rw [Memory.writeWords_cons]
    cases k with
    | zero =>
      obtain rfl : v = w := Option.some.inj hw
      have start : base + BitVec.ofNat 16 0 = base := BitVec.add_zero base
      rw [start, Memory.readWord_writeWords_outside, Memory.readWord_writeWord_same]
      intro k hk
      rw [add_one_add_ofNat]
      exact ne_add_ofNat_succ base (by omega)
    | succ k =>
      rw [← add_one_add_ofNat]
      exact ih (by omega) hw

/-! ## Image files -/

theorem wordsOfImage_imageOfWords (order : ByteOrder) (ws : List Word) :
    wordsOfImage order (imageOfWords order ws) = some ws := by
  induction ws with
  | nil => rfl
  | cons w ws ih =>
    have split : imageOfWords order (w :: ws) = bytesOfWord order w ++ imageOfWords order ws := rfl
    rw [split, wordsOfImage_bytesOfWord_append, ih]
    rfl

/-- A program goes to one of the two memories and to no register. -/
theorem loadProgram_registers (s : State) (a : Word) (ws : List Word) :
    (s.loadProgram a ws).ac = s.ac ∧ (s.loadProgram a ws).rf = s.rf ∧ (s.loadProgram a ws).hi = s.hi
      ∧ (s.loadProgram a ws).lo = s.lo ∧ (s.loadProgram a ws).sp = s.sp ∧ (s.loadProgram a ws).lk = s.lk
      ∧ (s.loadProgram a ws).pc = s.pc ∧ (s.loadProgram a ws).params = s.params := by
  unfold State.loadProgram
  split <;> exact ⟨rfl, rfl, rfl, rfl, rfl, rfl, rfl, rfl⟩

/-- Settles O58. Reading an image undoes writing it; the load writes its words at consecutive addresses. -/
theorem loadedImageReadsBackInEitherByteOrder : Obligations.LoadedImageReadsBackInEitherByteOrder := by
  refine ⟨fun w => ⟨rfl, rfl⟩, fun s base ws fits => ⟨?program, ?data⟩⟩
  case program =>
    refine ⟨s.loadProgram base ws, ?_, fun k w hw => ?_, fun a outside => ?_, loadProgram_registers s base ws⟩
    · rw [State.loadProgramImage, wordsOfImage_imageOfWords, Option.map_some]
    · rw [State.loadProgram_instrMem]
      exact Memory.readWord_writeWords fits hw
    · rw [State.loadProgram_instrMem]
      exact Memory.readWord_writeWords_outside outside
  case data =>
    refine ⟨s.loadData base ws, ?_, fun k w hw => Memory.readWord_writeWords fits hw,
      fun a outside => Memory.readWord_writeWords_outside outside, rfl, rfl, rfl, rfl, rfl, rfl, rfl, rfl⟩
    rw [State.loadDataImage, wordsOfImage_imageOfWords, Option.map_some]

end Sys2Proof.Machine
end
